-- ==== Sys2Proof/Word.lean ====
section
/-! DEFINITION. The word types: a lane, a block word and a register are unsigned 64-bit values (00_scope R7, R10). -/

namespace Sys2Proof

/-- A lane, a block word, a register or a bus word (R7, R10). -/
abbrev Word := BitVec 64

/-- A byte of the message, the state or the digest (R13). -/
abbrev Byte := BitVec 8

/-- The 1600-bit Keccak state: "always exactly 25 lanes" (R7, R20). -/
abbrev Lanes := Vector Word 25

/-- The 18 words of the host-written block buffer (R8, R23). -/
abbrev BlockBuffer := Vector Word 18

end Sys2Proof
end

