-- ==== Sys2Proof/Config.lean ====
section
/-! DEFINITION. The open parameters of the platform (00_scope R9) and the free values, each a constant with no body. -/

namespace Sys2Proof

/-- The number of the 0x400-byte page the platform puts the register window at (R9, R50). No value is known. -/
opaque Config.basePage : Nat

/-- `BASE`, the physical address of offset 0 of the window: a multiple of 0x400 (R9). -/
def Config.base : Nat := 0x400 * Config.basePage

/-- The physical byte address of a window offset (R50). -/
def Config.physicalAddress (offset : Fin 0x400) : Nat := Config.base + offset.val

/-- One cycle less than the latency of a command with this OPCODE (R9). No value is known. -/
opaque Config.latencyLessOne : BitVec 8 → Nat

/-- `CMD_LATENCY(op)`, at least 1; no rule depends on it (R9, R209). -/
def Config.cmdLatency (op : BitVec 8) : Nat := Config.latencyLessOne op + 1

/-- The free values of the machine: the n-th draw of an unspecified 64-bit value. They stand for the lanes and block
words after reset (R22, R23, U1, U2) and for STATE reads while BUSY = 1 (R58, U3). DESIGN CHOICE (logs 4 and 5). -/
opaque Config.freeWord : Nat → Word

end Sys2Proof
end

