-- ==== Sys2Proof/Syntax.lean ====
section
/-! DEFINITION. The twelve commands of opcode_table.json (30_encoding R82), one constructor a row. -/

namespace Sys2Proof

/-- A command. LEN and IR are unsigned numbers, neither scaled nor sign-extended (R81); the state RAM and the block
buffer are implicit operands. -/
inductive Instr where
  | nop
  | init
  | absorb
  | absorbLast (len : Nat)
  | squeeze
  | permute
  | round (ir : Nat)
  | theta
  | rho
  | pi
  | chi
  | iota (ir : Nat)
  deriving DecidableEq, Repr

end Sys2Proof
end

