-- ==== Sys2Proof/Machine/State.lean ====
section
/-! DEFINITION. The state of the core (10_state), the inputs from outside it, its outputs, and reset (70_reset R200). -/

namespace Sys2Proof.Machine

/-- The machine stops with a fault only at a completion that the acceptance checks of R86 rule out (log 10). -/
inductive Fault where
  /-- Raised by the completion of INIT when the captured variant is not one of 1..4. Safe: acceptance refuses such an
  INIT with BAD_CONFIG (R86), so no run reaches it. -/
  | invalidVariantInFlight
  /-- Raised by the completion of ABSORB or ABSORB_LAST when ACTIVE_VARIANT = 0: the spec gives no rate there (R150).
  Safe: such a command needs phase ABSORB, in which ACTIVE_VARIANT is in 1..4 (R30), so no run reaches it. -/
  | noActiveVariant
  /-- Raised by the completion of ABSORB_LAST when LEN ≥ RATE_BYTES: Pad needs n < R (R152). Safe: acceptance refuses
  it with BAD_ARGUMENT (R86), so no run reaches it. -/
  | lengthOutOfRange
  /-- Raised by the completion of ROUND or IOTA when IR ≥ 24: there is no RC[IR] (R121). Safe: acceptance refuses it
  with BAD_ARGUMENT (R86), so no run reaches it. -/
  | noRoundConstant
  deriving DecidableEq, Repr

/-- The model has no meaning for a command. -/
inductive Refusal where
  /-- Answered by exec for a command that has no meaning yet. Safe: the run ends. No arm of exec uses it. -/
  | notModelled (mnemonic : String)
  deriving DecidableEq, Repr

/-- The error causes 1 to 7 (60_exceptions R180). Codes 8 to 15 are never produced, and code 0 is "no error". -/
inductive CmdError where
  | busy
  | illegalOpcode
  | reservedField
  | badPhase
  | badConfig
  | badArgument
  | busError
  deriving DecidableEq, Repr

/-- The position of the sponge (R27): 0 IDLE, 1 ABSORB, 2 SQUEEZE. The value 3 is never held. -/
inductive Phase where
  | idle
  | absorb
  | squeeze
  deriving DecidableEq, Repr

/-- The SHA-3 variants, codes 1 to 4 (R8, R32, R150). -/
inductive Variant where
  | sha3x224
  | sha3x256
  | sha3x384
  | sha3x512
  deriving DecidableEq, Repr

/-- The in-flight record (R38): the accepted command, which carries OPCODE, LEN and IR, and CONFIG.VARIANT at
acceptance, which only INIT uses (R87). -/
structure Inflight where
  command : Instr
  variant : BitVec 3
  deriving DecidableEq, Repr

/-- The registers of the window (20_memory R51). -/
inductive Reg where
  | state (i : Fin 25)
  | block (j : Fin 18)
  | cmd
  | status
  | config
  | param
  | info
  | rc (k : Fin 24)
  deriving DecidableEq, Repr

/-- What the outside world does next to the core (log 3). -/
inductive Input where
  /-- A host read of `size` bytes at a byte offset of the window (R53). -/
  | read (offset : Fin 0x400) (size : Nat)
  /-- A host write of `size` bytes at a byte offset of the window (R53). -/
  | write (offset : Fin 0x400) (size : Nat) (data : Word)
  /-- WAIT: the host reads STATUS until BUSY reads 0 (R91). -/
  | wait
  /-- The reset event, which is not a bus access (R200). -/
  | reset
  deriving DecidableEq, Repr

/-- The two agents of R15. -/
inductive Agent where
  | host
  | core
  deriving DecidableEq, Repr

/-- The answer to a bus transaction (R53). -/
inductive Response where
  | readOk (data : Word)
  | writeOk
  | readError (data : Word)
  | writeError
  deriving DecidableEq, Repr

/-- The state of the core, and of the world outside it as far as the core can see. PARAM, INFO, RC[k], STATUS.BUSY and
irq are computed from it (R34, R35, R36, R26, R40). -/
structure State where
  /-- The state RAM, lane[0..24] (R20). -/
  lanes : Lanes
  /-- The block buffer, block[0..17] (R23). -/
  block : BlockBuffer
  /-- The model's own field: which lanes have a value, set by INIT or by a host write and not lost since (R22, log 4). -/
  laneSet : Vector Bool 25
  /-- The model's own field: which block words have a value, written by the host since reset (R23, log 4). -/
  blockSet : Vector Bool 18
  /-- CMD: the last command word that was accepted (R24). -/
  cmd : Word
  /-- STATUS.DONE (R28). -/
  done : Bool
  /-- STATUS.ERR and STATUS.ERR_CODE: ERR = 1 exactly when a code is held, and the code is 0 when ERR = 0 (R25, R29). -/
  err : Option CmdError
  /-- STATUS.PHASE (R27). -/
  phase : Phase
  /-- STATUS.ACTIVE_VARIANT; none is the code 0 (R30). -/
  activeVariant : Option Variant
  /-- CONFIG.VARIANT, "any 3-bit value written, valid or not" (R32). -/
  cfgVariant : BitVec 3
  /-- CONFIG.IRQ_EN_DONE (R33). -/
  irqEnDone : Bool
  /-- CONFIG.IRQ_EN_ERR (R33). -/
  irqEnErr : Bool
  /-- The in-flight record, "present exactly when STATUS.BUSY = 1" (R26, R38). -/
  inflight : Option Inflight
  /-- The model's own field: the inputs from outside still to come, in order (R56, log 3). -/
  program : List Input
  /-- The model's own field: which agent moves in the coming steps; see `State.mover` (R15, R56, log 2). -/
  turns : List Agent
  /-- The model's own field: the core's answer to the last bus transaction (R53, log 15). -/
  response : Option Response
  /-- The model's own field: how many free values have been drawn (log 4). -/
  draws : Nat
  deriving DecidableEq, Repr

/-- 25 lanes of unspecified value: each is the next draw of a free value, counted from `n` (R22, log 4). -/
@[irreducible] def drawLanes (n : Nat) : Lanes := Vector.ofFn fun i => Config.freeWord (n + i.val)

/-- 18 block words of unspecified value, drawn likewise (R23, log 4). -/
@[irreducible] def drawBlock (n : Nat) : BlockBuffer := Vector.ofFn fun j => Config.freeWord (n + j.val)

/-- Every piece of state at its reset value (R41). The lanes and block words are not reset and hold unspecified values
(R22, R23): each is the next draw of a free value, counted from `n`, and none has a value set (DESIGN CHOICE, log 4). -/
def State.resetFrom (n : Nat) : State where
  lanes := drawLanes n
  block := drawBlock (n + 25)
  laneSet := Vector.replicate 25 false
  blockSet := Vector.replicate 18 false
  cmd := 0
  done := false
  err := none
  phase := .idle
  activeVariant := none
  cfgVariant := 0
  irqEnDone := false
  irqEnErr := false
  inflight := none
  program := []
  turns := []
  response := none
  draws := n + 43

/-- The machine right after reset (R41, R200), with nothing placed in the program. -/
def State.reset : State := State.resetFrom 0

end Sys2Proof.Machine
end

