-- ==== Sys2Proof/Machine/Operands.lean ====
section
/-! DEFINITION. The operands of the commands: the parameters of a variant (rate_capacity_config, 42_sponge R150), the bytes of
lanes and block words (20_memory R54), and the legal ranges of LEN and IR (30_encoding R81). -/

namespace Sys2Proof.Machine

/-- The code of a variant (R8, R32). -/
def Variant.code : Variant → BitVec 3
  | .sha3x224 => 1
  | .sha3x256 => 2
  | .sha3x384 => 3
  | .sha3x512 => 4

/-- The variant of a code: "0 none, ... 5, 6, 7 invalid" (R32). -/
def Variant.ofCode (c : BitVec 3) : Option Variant :=
  match c.toNat with
  | 1 => some .sha3x224
  | 2 => some .sha3x256
  | 3 => some .sha3x384
  | 4 => some .sha3x512
  | _ => none

/-- OUT_BITS: the N of SHA3-N (R150). -/
def Variant.outBits : Variant → Nat
  | .sha3x224 => 224
  | .sha3x256 => 256
  | .sha3x384 => 384
  | .sha3x512 => 512

/-- `capacity_bits = 2N` (R150). -/
def Variant.capBits (v : Variant) : Nat := 2 * v.outBits

/-- `rate_bits = 1600 − 2N` (R150). -/
def Variant.rateBits (v : Variant) : Nat := 1600 - 2 * v.outBits

/-- RATE_BYTES = RATE_BITS/8 (R150). -/
def Variant.rateBytes (v : Variant) : Nat := v.rateBits / 8

/-- RATE_LANES = RATE_BITS/64 (R150). -/
def Variant.rateLanes (v : Variant) : Nat := v.rateBits / 64

/-- CAP_LANES = 25 − RATE_LANES (R150). -/
def Variant.capLanes (v : Variant) : Nat := 25 - v.rateLanes

/-- OUT_BYTES = OUT_BITS/8 (R150). -/
def Variant.outBytes (v : Variant) : Nat := v.outBits / 8

/-- LEN is legal for a final block: 0 ≤ LEN < RATE_BYTES of the active variant (R81). With ACTIVE_VARIANT = 0, where
PARAM and so its RATE_BYTES field read 0 (R34), no LEN is legal (DEDUCED, log 11). -/
def lenInRange (len : Nat) (active : Option Variant) : Bool :=
  match active with
  | none => false
  | some v => len < v.rateBytes

/-- Byte `j` (0..7) of a word, little-endian (R54). -/
def byteOfWord (w : Word) (j : Nat) : Byte := w.extractLsb' (8 * j) 8

/-- Byte `k` of the state's byte stream: byte k mod 8 of lane k div 8 (R13, R54). -/
def stateByte (A : Lanes) (k : Nat) : Byte := byteOfWord (A.getD (k / 8) 0) (k % 8)

/-- Byte `m` of the block buffer: byte m mod 8 of block[m div 8] (R54). -/
def blockByte (B : BlockBuffer) (m : Nat) : Byte := byteOfWord (B.getD (m / 8) 0) (m % 8)

/-- The first `n` bytes of the block buffer: the message bytes of the final block (R158). -/
def blockBytes (B : BlockBuffer) (n : Nat) : List Byte := (List.range n).map (blockByte B)

/-- The word that packs bytes 8i..8i+7 of a byte stream, little-endian; bytes past its end are 0 (R54, R91, R154). -/
def wordOfBytes (P : List Byte) (i : Nat) : Word :=
  (List.range 8).foldl (fun w j => w ||| (P.getD (8 * i + j) 0).setWidth 64 <<< (8 * j)) 0

end Sys2Proof.Machine
end

