-- ==== Sys2Proof/WellFormed.lean ====
section
/-! DEFINITION. Which commands fit the command word: the assembler's own check (30_encoding R91). -/

namespace Sys2Proof

/-- "the assembler refuses n > 255 and ir > 31, which do not fit their fields" (R91). Range errors inside the field are
the core's to report (R86). -/
def Instr.wf : Instr → Bool
  | .absorbLast len => len < 256
  | .round ir => ir < 32
  | .iota ir => ir < 32
  | .nop => true
  | .init => true
  | .absorb => true
  | .squeeze => true
  | .permute => true
  | .theta => true
  | .rho => true
  | .pi => true
  | .chi => true

end Sys2Proof
end

