-- ==== Sys2Proof/Decode.lean ====
section
/-! DEFINITION. The command word (30_encoding R80 to R84): the decoder, total and rejecting by name, the encoder, and the
rows of the opcode table as masks and matches. -/

namespace Sys2Proof

/-- Why a word is no command (R83, R84). -/
inductive DecodeError where
  /-- OPCODE is not in the map of R82. -/
  | illegalOpcode
  /-- OPCODE is in the map, and a bit of a field the command does not use is 1. -/
  | reservedField
  deriving DecidableEq, Repr

/-- OPCODE, bits 7:0 (R80). -/
def opcodeField (w : Word) : Nat := (w.extractLsb' 0 8).toNat

/-- LEN, bits 15:8, zero-extended (R80, R81). -/
def lenField (w : Word) : Nat := (w.extractLsb' 8 8).toNat

/-- IR, bits 20:16, zero-extended (R80, R81). -/
def irField (w : Word) : Nat := (w.extractLsb' 16 5).toNat

/-- Bits 63:21, which must be 0 (R80). -/
def reservedBits (w : Word) : Nat := (w.extractLsb' 21 43).toNat

/-- The opcode map (R82): the command of an OPCODE, with its LEN or IR operand. -/
def opcodeMap (op len ir : Nat) : Option Instr :=
  match op with
  | 0x00 => some .nop
  | 0x01 => some .init
  | 0x02 => some .absorb
  | 0x03 => some (.absorbLast len)
  | 0x04 => some .squeeze
  | 0x08 => some .permute
  | 0x09 => some (.round ir)
  | 0x10 => some .theta
  | 0x11 => some .rho
  | 0x12 => some .pi
  | 0x13 => some .chi
  | 0x14 => some (.iota ir)
  | _ => none

/-- LEN is a field of ABSORB_LAST only (R80). -/
def Instr.usesLen : Instr → Bool
  | .absorbLast _ => true
  | .nop => false
  | .init => false
  | .absorb => false
  | .squeeze => false
  | .permute => false
  | .round _ => false
  | .theta => false
  | .rho => false
  | .pi => false
  | .chi => false
  | .iota _ => false

/-- IR is a field of ROUND and IOTA only (R80). -/
def Instr.usesIr : Instr → Bool
  | .round _ => true
  | .iota _ => true
  | .nop => false
  | .init => false
  | .absorb => false
  | .absorbLast _ => false
  | .squeeze => false
  | .permute => false
  | .theta => false
  | .rho => false
  | .pi => false
  | .chi => false

/-- Every field the command does not use is 0 (R83). -/
def unusedFieldsClear (i : Instr) (w : Word) : Bool :=
  reservedBits w == 0 && (i.usesLen || lenField w == 0) && (i.usesIr || irField w == 0)

/-- The command a word names, or why it names none (R84): the opcode is checked before the unused fields (R86). -/
def decode (w : Word) : Except DecodeError Instr :=
  match opcodeMap (opcodeField w) (lenField w) (irField w) with
  | none => .error .illegalOpcode
  | some i => if unusedFieldsClear i w then .ok i else .error .reservedField

/-- The command word of a command (R82). -/
def encode : Instr → Word
  | .nop => 0x00
  | .init => 0x01
  | .absorb => 0x02
  | .absorbLast len => 0x03 ||| BitVec.ofNat 64 len <<< 8
  | .squeeze => 0x04
  | .permute => 0x08
  | .round ir => 0x09 ||| BitVec.ofNat 64 ir <<< 16
  | .theta => 0x10
  | .rho => 0x11
  | .pi => 0x12
  | .chi => 0x13
  | .iota ir => 0x14 ||| BitVec.ofNat 64 ir <<< 16

/-- A row of opcode_table.json: a word names the row's command exactly when `w & mask = value` (R84). -/
structure OpcodeRow where
  mnemonic : String
  value : Word
  mask : Word
  deriving DecidableEq, Repr

/-- The rows of opcode_table.json, in its order. -/
def opcodeTable : List OpcodeRow :=
  [ ⟨"NOP", 0x0000000000000000, 0xFFFFFFFFFFFFFFFF⟩,
    ⟨"INIT", 0x0000000000000001, 0xFFFFFFFFFFFFFFFF⟩,
    ⟨"ABSORB", 0x0000000000000002, 0xFFFFFFFFFFFFFFFF⟩,
    ⟨"ABSORB_LAST", 0x0000000000000003, 0xFFFFFFFFFFFF00FF⟩,
    ⟨"SQUEEZE", 0x0000000000000004, 0xFFFFFFFFFFFFFFFF⟩,
    ⟨"PERMUTE", 0x0000000000000008, 0xFFFFFFFFFFFFFFFF⟩,
    ⟨"ROUND", 0x0000000000000009, 0xFFFFFFFFFFE0FFFF⟩,
    ⟨"THETA", 0x0000000000000010, 0xFFFFFFFFFFFFFFFF⟩,
    ⟨"RHO", 0x0000000000000011, 0xFFFFFFFFFFFFFFFF⟩,
    ⟨"PI", 0x0000000000000012, 0xFFFFFFFFFFFFFFFF⟩,
    ⟨"CHI", 0x0000000000000013, 0xFFFFFFFFFFFFFFFF⟩,
    ⟨"IOTA", 0x0000000000000014, 0xFFFFFFFFFFE0FFFF⟩ ]

/-- The row of opcode_table.json a command belongs to, by its mnemonic. -/
def Instr.mnemonic : Instr → String
  | .nop => "NOP"
  | .init => "INIT"
  | .absorb => "ABSORB"
  | .absorbLast _ => "ABSORB_LAST"
  | .squeeze => "SQUEEZE"
  | .permute => "PERMUTE"
  | .round _ => "ROUND"
  | .theta => "THETA"
  | .rho => "RHO"
  | .pi => "PI"
  | .chi => "CHI"
  | .iota _ => "IOTA"

/-- The word matches the row (R84). -/
def OpcodeRow.hit (r : OpcodeRow) (w : Word) : Bool := w &&& r.mask == r.value

/-- The instruction the decoder reads from a table word: the low `nbits` bits of `w` are the command word, and every bit
above them is 0. A command is one 64-bit bus word, so no byte order is involved (R55, log 12). -/
def decodeTableWord (nbits w : Nat) : Option Instr :=
  match decode (BitVec.ofNat 64 (w % 2 ^ nbits)) with
  | .ok i => some i
  | .error _ => none

end Sys2Proof
end

