-- ==== Sys2Proof/Machine/Ops.lean ====
section
/-! DEFINITION. The named operations every command and every transaction is built from: whose move it is, raising and
clearing an error, acceptance (30_encoding R86, R87), completion (R88), and the reset event (70_reset R200). -/

namespace Sys2Proof.Machine

/-- The answer of a step. -/
abbrev Answer := Host.Outcome State Fault Refusal

/-- STATUS.BUSY: "1 exactly while a command is in flight" (R26). -/
def State.busy (s : State) : Bool := s.inflight.isSome

/-- Whose move the next step is: the next entry of `turns`; when no entry is left, the core's if a command is in flight
(weak fairness, R15, R88), else the host's (log 2). -/
def State.mover (s : State) : Agent :=
  match s.turns with
  | a :: _ => a
  | [] => if s.busy then .core else .host

/-- A step in which the agent to move does nothing (R88, R197). -/
def State.endIdleTurn (s : State) : State := { s with turns := s.turns.tail }

/-- The host's transaction is over: the core has answered it, and the next input comes up. -/
def State.endHostTurn (r : Response) (s : State) : State :=
  { s with program := s.program.tail, turns := s.turns.tail, response := some r }

/-- Raising an error, the one exception entry of this core: `raise CmdError(code)` (R182). The first error since ERR was
last clear is kept (R191); no state is saved and no control moves (R188). -/
def raiseError (e : CmdError) (s : State) : State :=
  match s.err with
  | none => { s with err := some e }
  | some _ => s

/-- Clearing ERR and ERR_CODE, the only return from an error (R183, R189). -/
def clearError (s : State) : State := { s with err := none }

/-- The bus refuses an access (R53): ERROR, and BUS_ERROR is recorded; nothing else changes. -/
def busError (r : Response) (s : State) : State := (raiseError .busError s).endHostTurn r

/-- Starting an accepted command (R87). -/
def startCommand (i : Instr) (s : State) : State :=
  { s with
    cmd := encode i
    inflight := some ⟨i, s.cfgVariant⟩
    done := false }

/-- The acceptance procedure (R86), given what the checks from ILLEGAL_OPCODE on decide: a write while ERR = 1 is
ignored, then BUSY, then the verdict. -/
def accept (verdict : Except CmdError Instr) (s : State) : State :=
  if s.err.isSome then s
  else if s.busy then raiseError .busy s
  else
    match verdict with
    | .error e => raiseError e s
    | .ok i => startCommand i s

/-- The end of the completion step (R88): the record is discarded, BUSY ← 0, DONE ← 1. -/
def finishCommand (s : State) : State :=
  { s with inflight := none, done := true, turns := s.turns.tail }

/-- The completion step (R88): execute the command in flight, then end it. It is enabled exactly when BUSY = 1. -/
def complete (execute : Inflight → State → Answer) (s : State) : Answer :=
  match s.inflight with
  | none => .next s.endIdleTurn
  | some f =>
    match execute f s with
    | .next t => .next (finishCommand t)
    | .fault r => .fault r
    | .refused r => .refused r

/-- A command's two events (R85): on the host's move the host has written the command's word to CMD and acceptance
runs; on the core's move the command is in flight and completes (log 1). -/
def commandEvent (verdict : State → Except CmdError Instr) (execute : Inflight → State → Answer) (s : State) : Answer :=
  match s.mover with
  | .host => .next ((accept (verdict s) s).endHostTurn .writeOk)
  | .core => complete execute s

/-- Every lane has a value (R22). -/
def State.lanesSet (s : State) : Bool := decide (∀ i : Fin 25, s.laneSet[i] = true)

/-- Every block word below `n` has a value (R23). -/
def State.blockSetBelow (s : State) (n : Nat) : Bool := decide (∀ j : Fin 18, j.val < n → s.blockSet[j] = true)

/-- The 25 lanes replaced by a command's result. When the command has read a lane or a block word with no value, the
result is unknown: every lane is a fresh draw and none has a value (R22, R23, U1, U2, log 4). -/
def State.replaceLanes (operandsSet : Bool) (A : Lanes) (s : State) : State :=
  match operandsSet with
  | true => { s with lanes := A }
  | false => { s with lanes := drawLanes s.draws, laneSet := Vector.replicate 25 false, draws := s.draws + 25 }

/-- A command that only maps the 25 lanes, read and replaced all at once (R111). -/
def mapLanes (f : Lanes → Lanes) (_ : Inflight) (s : State) : Answer := .next (s.replaceLanes s.lanesSet (f s.lanes))

/-- The reset event (R200, R201): every piece of the core's state takes its reset value and a command in flight is
abandoned. The world outside goes on with its next input (log 15). -/
def State.afterReset (s : State) : State :=
  { State.resetFrom s.draws with program := s.program.tail, turns := s.turns.tail }

end Sys2Proof.Machine
end

