-- ==== Sys2Proof/Machine/Flags.lean ====
section
/-! DEFINITION. The registers of flags: STATUS, CONFIG, PARAM and INFO as words (10_state R25, R32, R34, R35), what writing STATUS
and CONFIG does (R31, R32), and irq (60_exceptions R187). -/

namespace Sys2Proof.Machine

/-- The code of an error (R180). -/
def CmdError.code : CmdError → BitVec 4
  | .busy => 1
  | .illegalOpcode => 2
  | .reservedField => 3
  | .badPhase => 4
  | .badConfig => 5
  | .badArgument => 6
  | .busError => 7

/-- STATUS.ERR_CODE: 0 when ERR = 0 (R25, R180). -/
def errCode (e : Option CmdError) : BitVec 4 :=
  match e with
  | none => 0
  | some e => e.code

/-- STATUS.PHASE (R27). -/
def Phase.code : Phase → BitVec 2
  | .idle => 0
  | .absorb => 1
  | .squeeze => 2

/-- STATUS.ACTIVE_VARIANT: 0 is none (R30). -/
def activeCode (v : Option Variant) : BitVec 3 :=
  match v with
  | none => 0
  | some v => v.code

/-- A field of a register word, placed with its bit 0 at bit `lo`. -/
def fieldAt {n : Nat} (lo : Nat) (field : BitVec n) : Word := field.setWidth 64 <<< lo

/-- STATUS as a word; its reserved bits read 0 (R25). -/
def statusWord (s : State) : Word :=
  fieldAt 0 (BitVec.ofBool s.busy) ||| fieldAt 1 (BitVec.ofBool s.done) ||| fieldAt 2 (BitVec.ofBool s.err.isSome)
    ||| fieldAt 4 s.phase.code ||| fieldAt 8 (activeCode s.activeVariant) ||| fieldAt 16 (errCode s.err)

/-- A host write to STATUS: bit 1 = 1 clears DONE, bit 2 = 1 clears ERR and ERR_CODE, nothing else happens (R31). -/
def writeStatus (v : Word) (s : State) : State :=
  let s₁ := if v.getLsbD 1 then { s with done := false } else s
  if v.getLsbD 2 then clearError s₁ else s₁

/-- CONFIG as a word; its reserved bits read 0 (R32). -/
def configWord (s : State) : Word :=
  fieldAt 0 s.cfgVariant ||| fieldAt 8 (BitVec.ofBool s.irqEnDone) ||| fieldAt 9 (BitVec.ofBool s.irqEnErr)

/-- A host write to CONFIG: VARIANT stores any 3-bit value, writes to reserved bits are ignored (R32). -/
def writeConfig (v : Word) (s : State) : State :=
  { s with
    cfgVariant := v.extractLsb' 0 3
    irqEnDone := v.getLsbD 8
    irqEnErr := v.getLsbD 9 }

/-- PARAM: the parameters of the active variant, 0 when there is none (R34). -/
def paramWord (active : Option Variant) : Word :=
  match active with
  | none => 0
  | some v =>
    fieldAt 48 (BitVec.ofNat 16 v.capBits) ||| fieldAt 32 (BitVec.ofNat 16 v.rateBits)
      ||| fieldAt 24 (BitVec.ofNat 8 v.capLanes) ||| fieldAt 16 (BitVec.ofNat 8 v.outBytes)
      ||| fieldAt 8 (BitVec.ofNat 8 v.rateBytes) ||| fieldAt 0 (BitVec.ofNat 8 v.rateLanes)

/-- INFO, a constant (R3, R35). -/
def infoWord : Word := 0x0000_001E_1218_1901

/-- The interrupt output, an active-high level (R187). -/
def State.irq (s : State) : Bool := s.done && s.irqEnDone || s.err.isSome && s.irqEnErr

end Sys2Proof.Machine
end

