-- ==== Sys2Proof/Machine/RoundFunctions.lean ====
section
/-! DEFINITION. keccak_p1600_permutation: the lane index mux, the five step mappings, the round-constant LUT with its generator
(40_round), one round and the 24-round permutation (41_permutation), as pure functions on 25 lanes. The five steps and the
permutation are irreducible, so that no proof evaluates them by accident; `unfold` or `simp only` opens them. -/

namespace Sys2Proof.Machine

/-- The lane index mux: `idx(x, y) = 5*(y mod 5) + (x mod 5)` (R12, R110). -/
def idx (x y : Nat) : Fin 25 := ⟨5 * (y % 5) + x % 5, by omega⟩

/-- `A[x,y]`, with coordinates taken mod 5 (R12, R110). -/
def laneAt (A : Lanes) (x y : Nat) : Word := A[idx x y]

/-- A new state from the value of each `A'[x,y]`: every step maps its whole input state to its output state (R110,
R124). -/
def buildLanes (f : Nat → Nat → Word) : Lanes := Vector.ofFn fun i => f (i.val % 5) (i.val / 5)

/-- `rotl(v, n)`, rotation left by n mod 64 (R11). -/
def rotl (v : Word) (n : Nat) : Word := v <<< (n % 64) ||| v >>> (64 - n % 64)

/-- Theta's column parity `C[x]` (R112). -/
def columnParity (A : Lanes) (x : Nat) : Word :=
  laneAt A x 0 ^^^ laneAt A x 1 ^^^ laneAt A x 2 ^^^ laneAt A x 3 ^^^ laneAt A x 4

/-- Theta's `D[x] = C[x-1] ^ rotl(C[x+1], 1)` (R112). -/
def thetaEffect (A : Lanes) (x : Nat) : Word := columnParity A (x + 4) ^^^ rotl (columnParity A (x + 1)) 1

/-- theta (R112). -/
@[irreducible] def theta (A : Lanes) : Lanes := buildLanes fun x y => laneAt A x y ^^^ thetaEffect A x

/-- The rho offset table by flat index (R114). -/
def rhoOffsets : Vector Nat 25 :=
  #v[0, 1, 62, 28, 27, 36, 44, 6, 55, 20, 3, 10, 43, 25, 39, 41, 45, 15, 21, 8, 18, 2, 61, 56, 14]

/-- rho (R115): each lane is rotated by its own offset. -/
@[irreducible] def rho (A : Lanes) : Lanes := Vector.ofFn fun i => rotl A[i] rhoOffsets[i]

/-- pi (R116, R117): `A'[x,y] = A[(x+3y) mod 5, x]`. -/
@[irreducible] def pi (A : Lanes) : Lanes := buildLanes fun x y => laneAt A (x + 3 * y) x

/-- chi (R118): only this form, with the NOT, is chi (R123). -/
@[irreducible] def chi (A : Lanes) : Lanes :=
  buildLanes fun x y => laneAt A x y ^^^ (~~~(laneAt A (x + 1) y) &&& laneAt A (x + 2) y)

/-- The next state of the rc generator's 8-bit register: shift left, feedback 0x71 (R119). -/
def rcNext (r : BitVec 8) : BitVec 8 := r <<< 1 ^^^ if r.getLsbD 7 then 0x71 else 0

/-- The rc generator's register after `t` steps from 0x01 (R119). -/
def rcRegister : Nat → BitVec 8
  | 0 => 0x01
  | t + 1 => rcNext (rcRegister t)

/-- `rc(t)`, bit 0 of the register (R119). -/
def rcBit (t : Nat) : Bool := (rcRegister t).getLsbD 0

/-- `RC[ir]` by construction: bit 2^j − 1 is rc(j + 7*ir) for j = 0..6, every other bit 0 (R120). -/
def roundConstantOf (ir : Nat) : Word :=
  (List.range 7).foldl (fun w j => w ||| (BitVec.ofBool (rcBit (j + 7 * ir))).setWidth 64 <<< (2 ^ j - 1)) 0

/-- The round-constant LUT, RC[0..23]: the ROM that the generator fills once (R36, R120, R121). -/
def roundConstants : Vector Word 24 := Vector.ofFn fun ir => roundConstantOf ir.val

/-- iota (R122): the round constant goes into lane (0,0) only. -/
@[irreducible] def iota (A : Lanes) (ir : Fin 24) : Lanes := A.set 0 (A[0] ^^^ roundConstants[ir])

/-- One round (R140): theta, rho, pi, chi, iota, in that order. -/
def keccakRound (A : Lanes) (ir : Fin 24) : Lanes := iota (chi (pi (rho (theta A)))) ir

/-- Keccak-p[1600,24]: the 24 rounds, round index ascending from 0 (R141, R144). -/
@[irreducible] def keccakP (A : Lanes) : Lanes := (List.finRange 24).foldl keccakRound A

end Sys2Proof.Machine
end

