-- ==== Sys2Proof/Machine/Bus.lean ====
section
/-! DEFINITION. The host register window (20_memory R50 to R58) and the two agents' moves. What a command does is the argument
`run`, which the step function gives as exec. -/

namespace Sys2Proof.Machine

/-- The address map of the window by word number, that is by offset/8 (R51); none is unmapped. -/
def regOfWord (k : Nat) : Option Reg :=
  if h : k < 25 then some (.state ⟨k, h⟩)
  else if h : 32 ≤ k ∧ k < 50 then some (.block ⟨k - 32, by omega⟩)
  else if k = 56 then some .cmd
  else if k = 57 then some .status
  else if k = 58 then some .config
  else if k = 59 then some .param
  else if k = 60 then some .info
  else if h : 64 ≤ k ∧ k < 88 then some (.rc ⟨k - 64, by omega⟩)
  else none

/-- The register an access reaches, or none for a bus error: "size != 8 or offset mod 8 != 0 or offset is unmapped"
(R53). -/
def decodeAccess (offset : Fin 0x400) (size : Nat) : Option Reg :=
  if size = 8 ∧ offset.val % 8 = 0 then regOfWord (offset.val / 8) else none

/-- The offset of a register (R51). -/
def Reg.offset : Reg → Fin 0x400
  | .state i => ⟨8 * i.val, by omega⟩
  | .block j => ⟨0x100 + 8 * j.val, by omega⟩
  | .cmd => 0x1C0
  | .status => 0x1C8
  | .config => 0x1D0
  | .param => 0x1D8
  | .info => 0x1E0
  | .rc k => ⟨0x200 + 8 * k.val, by omega⟩

/-- Reading a register. No read has a side effect (R51); a STATE read while BUSY = 1 gives any value, a fresh free draw
(R58, log 5), and every other read is exact. -/
def readReg (r : Reg) (s : State) : Word × State :=
  match r with
  | .state i => if s.busy then (Config.freeWord s.draws, { s with draws := s.draws + 1 }) else (s.lanes[i], s)
  | .block j => (s.block[j], s)
  | .cmd => (s.cmd, s)
  | .status => (statusWord s, s)
  | .config => (configWord s, s)
  | .param => (paramWord s.activeVariant, s)
  | .info => (infoWord, s)
  | .rc k => (roundConstants[k], s)

/-- The error a word that names no command raises (R83). -/
def DecodeError.cmdError : DecodeError → CmdError
  | .illegalOpcode => .illegalOpcode
  | .reservedField => .reservedField

/-- A host write of a word to CMD (R86): the command it names runs its acceptance; a word that names none is refused. -/
def writeCmd (run : Instr → State → Answer) (w : Word) (s : State) : Answer :=
  match decode w with
  | .ok i => run i s
  | .error e => .next ((accept (.error (DecodeError.cmdError e)) s).endHostTurn .writeOk)

/-- A write the core answers with OK (R53). -/
def writeDone (s : State) : Answer := .next (s.endHostTurn .writeOk)

/-- A host write gives a lane its value (R20, R22). -/
def State.setLane (i : Fin 25) (v : Word) (s : State) : State :=
  { s with lanes := s.lanes.set i.val v, laneSet := s.laneSet.set i.val true }

/-- A host write gives a block word its value (R23). -/
def State.setBlock (j : Fin 18) (v : Word) (s : State) : State :=
  { s with block := s.block.set j.val v, blockSet := s.blockSet.set j.val true }

/-- Writing a register. STATE and BLOCK writes are refused with BUSY while BUSY = 1 (R58); PARAM, INFO and RC[k] ignore
writes (R53); the answer on the bus is OK in each case (log 7). -/
def writeReg (run : Instr → State → Answer) (r : Reg) (v : Word) (s : State) : Answer :=
  match r with
  | .state i => writeDone (if s.busy then raiseError .busy s else s.setLane i v)
  | .block j => writeDone (if s.busy then raiseError .busy s else s.setBlock j v)
  | .cmd => writeCmd run v s
  | .status => writeDone (writeStatus v s)
  | .config => writeDone (writeConfig v s)
  | .param => writeDone s
  | .info => writeDone s
  | .rc _ => writeDone s

/-- A host read (R53). -/
def hostRead (offset : Fin 0x400) (size : Nat) (s : State) : State :=
  match decodeAccess offset size with
  | none => busError (.readError 0) s
  | some r => (readReg r s).2.endHostTurn (.readOk (readReg r s).1)

/-- A host write (R53). -/
def hostWrite (run : Instr → State → Answer) (offset : Fin 0x400) (size : Nat) (v : Word) (s : State) : Answer :=
  match decodeAccess offset size with
  | none => .next (busError .writeError s)
  | some r => writeReg run r v s

/-- One poll of WAIT: a read of STATUS; WAIT is over when BUSY reads 0 (R91). -/
def pollStatus (s : State) : State :=
  { s.endHostTurn (.readOk (statusWord s)) with program := if s.busy then s.program else s.program.tail }

/-- The host's move: the next input from outside. -/
def hostMove (run : Instr → State → Answer) (s : State) : Answer :=
  match s.program with
  | [] => .next s.endIdleTurn
  | .read offset size :: _ => .next (hostRead offset size s)
  | .write offset size v :: _ => hostWrite run offset size v s
  | .wait :: _ => .next (pollStatus s)
  | .reset :: _ => .next s.afterReset

/-- The core's move: the completion step of the command in flight, if there is one (R88). -/
def coreMove (run : Instr → State → Answer) (s : State) : Answer :=
  match s.inflight with
  | none => .next s.endIdleTurn
  | some f => run f.command s

end Sys2Proof.Machine
end

