-- ==== Sys2Proof/Machine/PermutationCommands.lean ====
section
/-! DEFINITION. The meanings of PERMUTE and ROUND (41_permutation R142, R143) and of the step commands THETA, RHO, PI, CHI and
IOTA (40_round R125 to R129), all admitted in every phase (30_encoding R89). -/

namespace Sys2Proof.Machine

/-- ROUND and IOTA are refused when IR ≥ 24 (R86). -/
def admitRoundIndex (i : Instr) (ir : Nat) : Except CmdError Instr :=
  if ir < 24 then .ok i else .error .badArgument

/-- A command that maps the lanes with the round constant RC[IR] (R122, R140). -/
def mapLanesAtRound (f : Lanes → Fin 24 → Lanes) (ir : Nat) (_ : Inflight) (s : State) : Answer :=
  if h : ir < 24 then .next (s.replaceLanes s.lanesSet (f s.lanes ⟨ir, h⟩)) else .fault .noRoundConstant

/-- PERMUTE (R143). -/
def execPermute (s : State) : Answer := commandEvent (fun _ => .ok .permute) (mapLanes keccakP) s

/-- ROUND (R142). -/
def execRound (ir : Nat) (s : State) : Answer :=
  commandEvent (fun _ => admitRoundIndex (.round ir) ir) (mapLanesAtRound keccakRound ir) s

/-- THETA (R125). -/
def execTheta (s : State) : Answer := commandEvent (fun _ => .ok .theta) (mapLanes theta) s

/-- RHO (R126). -/
def execRho (s : State) : Answer := commandEvent (fun _ => .ok .rho) (mapLanes rho) s

/-- PI (R127). -/
def execPi (s : State) : Answer := commandEvent (fun _ => .ok .pi) (mapLanes pi) s

/-- CHI (R128). -/
def execChi (s : State) : Answer := commandEvent (fun _ => .ok .chi) (mapLanes chi) s

/-- IOTA (R129). -/
def execIota (ir : Nat) (s : State) : Answer :=
  commandEvent (fun _ => admitRoundIndex (.iota ir) ir) (mapLanesAtRound iota ir) s

end Sys2Proof.Machine
end

