-- ==== Sys2Proof/Machine/Sponge.lean ====
section
/-! DEFINITION. sha3_sponge_absorb_squeeze as pure functions: the padding engine (42_sponge R152), the state XOR unit (R154), and
the digest readout (R160). -/

namespace Sys2Proof.Machine

/-- Byte `k` of the final block: the message byte if there is one, 0x06 ORed in at `n` and 0x80 at `R − 1` (R152). -/
def padByte (msg : List Byte) (n rate k : Nat) : Byte :=
  (if k < n then msg.getD k 0 else 0) ||| (if k = n then 0x06 else 0) ||| (if k = rate - 1 then 0x80 else 0)

/-- `Pad(msg, n, R)`: the R-byte final block, for n < R (R152, R153). -/
def pad (msg : List Byte) (n rate : Nat) : List Byte := (List.range rate).map (padByte msg n rate)

/-- XORs the first `rl` words of a block into the first `rl` lanes; the capacity lanes are unchanged (R154, R157). -/
def xorWords (A : Lanes) (word : Nat → Word) (rl : Nat) : Lanes :=
  Vector.ofFn fun i => if i.val < rl then A[i] ^^^ word i.val else A[i]

/-- `XorIn(A, P, RL)`: the byte block P, packed little-endian, into the first RL lanes (R154). -/
def xorIn (A : Lanes) (P : List Byte) (rl : Nat) : Lanes := xorWords A (wordOfBytes P) rl

/-- Absorbing a full block from the buffer (R157). -/
def absorbBlock (v : Variant) (B : BlockBuffer) (A : Lanes) : Lanes :=
  keccakP (xorWords A (fun i => B.getD i 0) v.rateLanes)

/-- Absorbing the final block: the first `n` buffer bytes, padded (R158). -/
def absorbFinal (v : Variant) (n : Nat) (B : BlockBuffer) (A : Lanes) : Lanes :=
  keccakP (xorIn A (pad (blockBytes B n) n v.rateBytes) (v.rateBytes / 8))

/-- The all-zero state of INIT (R156). -/
def zeroLanes : Lanes := Vector.replicate 25 0

/-- The digest: the state bytes S[0 .. OUT_BYTES−1]; the host truncates (R160). -/
def digestOf (v : Variant) (A : Lanes) : List Byte := (List.range v.outBytes).map (stateByte A)

end Sys2Proof.Machine
end

