-- ==== Sys2Proof/Machine/SpongeCommands.lean ====
section
/-! DEFINITION. The meanings of NOP, INIT, ABSORB, ABSORB_LAST and SQUEEZE (42_sponge R155 to R159). Each has its checks at
acceptance (30_encoding R86) and its execution at completion. -/

namespace Sys2Proof.Machine

/-- NOP executes nothing (R155). -/
def completeNop (_ : Inflight) (s : State) : Answer := .next s

/-- NOP (R155): admitted in every phase. -/
def execNop (s : State) : Answer := commandEvent (fun _ => .ok .nop) completeNop s

/-- INIT is refused when CONFIG.VARIANT ∉ {1,2,3,4} (R86, R156). -/
def admitInit (s : State) : Except CmdError Instr :=
  if (Variant.ofCode s.cfgVariant).isSome then .ok .init else .error .badConfig

/-- INIT zeroes the lanes, which all have a value then (R22), latches the captured variant and enters phase ABSORB (R156). -/
def completeInit (f : Inflight) (s : State) : Answer :=
  match Variant.ofCode f.variant with
  | none => .fault .invalidVariantInFlight
  | some v => .next { s with
      lanes := zeroLanes, laneSet := Vector.replicate 25 true, activeVariant := some v, phase := .absorb }

/-- INIT (R156): admitted in every phase. -/
def execInit (s : State) : Answer := commandEvent admitInit completeInit s

/-- ABSORB is refused when PHASE ≠ ABSORB (R86, R157). -/
def admitAbsorb (s : State) : Except CmdError Instr :=
  if s.phase = .absorb then .ok .absorb else .error .badPhase

/-- ABSORB XORs the rate words of the buffer into the lanes and permutes; it reads every lane and the rate words
(R157). -/
def completeAbsorb (_ : Inflight) (s : State) : Answer :=
  match s.activeVariant with
  | none => .fault .noActiveVariant
  | some v => .next (s.replaceLanes (s.lanesSet && s.blockSetBelow v.rateLanes) (absorbBlock v s.block s.lanes))

/-- ABSORB (R157). -/
def execAbsorb (s : State) : Answer := commandEvent admitAbsorb completeAbsorb s

/-- ABSORB_LAST is refused when PHASE ≠ ABSORB, then when LEN ≥ RATE_BYTES (R86, R158). -/
def admitAbsorbLast (len : Nat) (s : State) : Except CmdError Instr :=
  if s.phase ≠ .absorb then .error .badPhase
  else if lenInRange len s.activeVariant then .ok (.absorbLast len)
  else .error .badArgument

/-- ABSORB_LAST pads the first LEN buffer bytes, XORs the block into the lanes, permutes, and enters phase SQUEEZE;
it reads every lane and the words that hold the LEN bytes (R158). -/
def completeAbsorbLast (len : Nat) (_ : Inflight) (s : State) : Answer :=
  match s.activeVariant with
  | none => .fault .noActiveVariant
  | some v =>
    if len < v.rateBytes then
      .next { s.replaceLanes (s.lanesSet && s.blockSetBelow ((len + 7) / 8)) (absorbFinal v len s.block s.lanes) with
        phase := .squeeze }
    else .fault .lengthOutOfRange

/-- ABSORB_LAST (R158). -/
def execAbsorbLast (len : Nat) (s : State) : Answer := commandEvent (admitAbsorbLast len) (completeAbsorbLast len) s

/-- SQUEEZE is refused when PHASE ≠ SQUEEZE (R86, R159). -/
def admitSqueeze (s : State) : Except CmdError Instr :=
  if s.phase = .squeeze then .ok .squeeze else .error .badPhase

/-- SQUEEZE: the permutation between squeeze blocks (R159). -/
def execSqueeze (s : State) : Answer := commandEvent admitSqueeze (mapLanes keccakP) s

end Sys2Proof.Machine
end

