-- ==== Sys2Proof/Machine/Step.lean ====
section
/-! DEFINITION. One step of the machine: the move of one of its two agents (00_scope R15, 20_memory R56). -/

namespace Sys2Proof.Machine

/-- One step: the move of the agent whose turn it is. A command runs by exec: its acceptance on the host's move, its
completion on the core's. -/
def step (s : State) : Host.Outcome State Fault Refusal :=
  match s.mover with
  | .host => hostMove exec s
  | .core => coreMove exec s

/-- `s` with a command word as the host's next write to CMD, and the host to move: the machine fetches no instructions,
its commands are data words written to CMD (R60, logs 3 and 12). -/
def State.withFetchWord (s : State) (nbits w : Nat) : State :=
  { s with
    program := .write 0x1C0 8 (BitVec.ofNat 64 (w % 2 ^ nbits)) :: s.program
    turns := .host :: s.turns }

end Sys2Proof.Machine
end

