-- ==== Sys2Proof/Machine/HostProgram.lean ====
section
/-! DEFINITION. Host programs: the lines of 30_encoding R90, the pseudo-instructions of R91 with their expansions into bus
transactions, and the digest procedure of 42_sponge R161. -/

namespace Sys2Proof.Machine

/-- A line of a host program (R90, R91). -/
inductive Line where
  /-- `WR <reg>, <value>` -/
  | wr (r : Reg) (v : Word)
  /-- `RD <reg>` -/
  | rd (r : Reg)
  /-- `WR @0xNNN, <value>` -/
  | wrAt (offset : Fin 0x400) (v : Word)
  /-- `RD @0xNNN` -/
  | rdAt (offset : Fin 0x400)
  /-- A command mnemonic with its argument. -/
  | command (i : Instr)
  /-- `WAIT` -/
  | wait
  /-- `CLEAR` -/
  | clear
  /-- `SETVAR <v> [irq]` -/
  | setvar (v : Word) (irq : Bool)
  /-- `LOADMSG <bytes>` -/
  | loadmsg (bytes : List Byte)
  deriving DecidableEq, Repr

/-- `WR <reg>, <value>`: MemWrite(offset(reg), 8, value) (R90). -/
def wrInput (r : Reg) (v : Word) : Input := .write r.offset 8 v

/-- The block-buffer writes of LOADMSG (R91); a message longer than the buffer's 144 bytes names a word BLOCK[18] or
above, which the syntax does not have (R90, log 17). -/
def loadmsgInputs (bytes : List Byte) : Option (List Input) :=
  if bytes.length ≤ 144 then
    some (((List.finRange 18).filter fun j => j.val < (bytes.length + 7) / 8).map fun j =>
      wrInput (.block j) (wordOfBytes bytes j.val))
  else none

/-- The bus transactions of a line (R91), or none when the assembler refuses the line. -/
def Line.expand : Line → Option (List Input)
  | .wr r v => some [wrInput r v]
  | .rd r => some [.read r.offset 8]
  | .wrAt offset v => some [.write offset 8 v]
  | .rdAt offset => some [.read offset 8]
  | .command i => if i.wf then some [wrInput .cmd (encode i)] else none
  | .wait => some [.wait]
  | .clear => some [wrInput .status 0x6]
  | .setvar v irq => some [wrInput .config (if irq then v ||| 0x300 else v)]
  | .loadmsg bytes => loadmsgInputs bytes

/-- A host program assembled: the transactions of its lines in order, or none when a line is refused. -/
def assemble : List Line → Option (List Input)
  | [] => some []
  | l :: ls =>
    match l.expand, assemble ls with
    | some a, some b => some (a ++ b)
    | _, _ => none

/-- A machine with a host program loaded, the host to run it from here (log 3). -/
def State.withProgram (s : State) (p : List Input) : State := { s with program := p }

/-- The host program of `digest(v, M)` up to the readout: CONFIG, INIT, an ABSORB for each full block, ABSORB_LAST for
the rest (R161). -/
def digestLines (v : Variant) (msg : List Byte) : List Line :=
  let rate := v.rateBytes
  let q := msg.length / rate
  [.wr .config (v.code.setWidth 64), .command .init, .wait]
    ++ (List.range q).flatMap (fun b =>
      [.loadmsg ((msg.drop (b * rate)).take rate), .command .absorb, .wait])
    ++ [.loadmsg (msg.drop (q * rate)), .command (.absorbLast (msg.length - q * rate)), .wait]

/-- The readout: STATE[0 .. ceil(OUT_BYTES/8) − 1] (R160). -/
def readoutLines (v : Variant) : List Line :=
  ((List.finRange 25).filter fun i => i.val < (v.outBytes + 7) / 8).map fun i => .rd (.state i)

end Sys2Proof.Machine
end

