-- ==== Sys2Proof/Safety.lean ====
section
/-! DEFINITION. What holds of every run: the invariant of the machine's states, and when a host program is over. -/

namespace Sys2Proof.Machine

/-- A command in flight still meets the conditions its acceptance checked (30_encoding R86). -/
def State.admits (s : State) (f : Inflight) : Prop :=
  match f.command with
  | .init => (Variant.ofCode f.variant).isSome = true
  | .absorb => s.phase = .absorb
  | .absorbLast len => s.phase = .absorb ∧ lenInRange len s.activeVariant = true
  | .squeeze => s.phase = .squeeze
  | .round ir => ir < 24
  | .iota ir => ir < 24
  | .nop => True
  | .permute => True
  | .theta => True
  | .rho => True
  | .pi => True
  | .chi => True

/-- The invariant of the machine's states. -/
structure State.Inv (s : State) : Prop where
  /-- ACTIVE_VARIANT is 0 only in phase IDLE, and in 1..4 in phases ABSORB and SQUEEZE (R30). -/
  variantOfPhase : s.phase = .idle ↔ s.activeVariant = none
  /-- CMD holds a word the core accepts as a command (R24). -/
  cmdLegal : ∃ i, decode s.cmd = .ok i
  /-- The in-flight record and CMD hold the same command word (R38). -/
  cmdInFlight : ∀ f, s.inflight = some f → decode s.cmd = .ok f.command
  /-- The command in flight was admitted (R86), and nothing since has taken that away. -/
  admitted : ∀ f, s.inflight = some f → s.admits f
  /-- DONE is cleared at acceptance and set at completion, so it is 0 in between (R28). -/
  notDoneInFlight : s.busy = true → s.done = false

/-- "The end of a host program is the state after its last transaction, provided BUSY = 0 there" (R208). -/
def State.programOver (s : State) : Bool := s.program.isEmpty && !s.busy

/-- The core is to complete the command `i`, accepted with CONFIG.VARIANT = `v` (R88). -/
def State.completing (s : State) (i : Instr) (v : BitVec 3) : Prop :=
  s.mover = .core ∧ s.inflight = some ⟨i, v⟩

/-- The host is to write `v` to the register `r` (30_encoding R90). -/
def State.hostWrites (s : State) (r : Reg) (v : Word) : Prop :=
  s.mover = .host ∧ ∃ rest, s.program = .write r.offset 8 v :: rest

/-- The host is to read the register `r` (R90). -/
def State.hostReads (s : State) (r : Reg) : Prop :=
  s.mover = .host ∧ ∃ rest, s.program = .read r.offset 8 :: rest

/-- Reset is to be asserted (70_reset R200). -/
def State.resetComes (s : State) : Prop :=
  s.mover = .host ∧ ∃ rest, s.program = .reset :: rest

/-- Every lane has a value (10_state R22). -/
def State.AllLanesSet (s : State) : Prop := ∀ i : Fin 25, s.laneSet[i] = true

/-- Every block word below `n` has a value (10_state R23). -/
def State.WordsSetBelow (s : State) (n : Nat) : Prop := ∀ j : Fin 18, j.val < n → s.blockSet[j] = true

/-- Some lane or block word has no value (R22, R23). -/
def State.SomethingUnset (s : State) : Prop := (∃ i : Fin 25, s.laneSet[i] = false) ∨ ∃ j : Fin 18, s.blockSet[j] = false

/-- The lanes of `a`, and which of them have a value, are as `b` left them. -/
def State.continues (a b : State) : Prop := a.lanes = b.lanes ∧ a.laneSet = b.laneSet

/-- The same answer on the bus, but for the data of a read that was answered OK. -/
def sameAnswer (q r : Option Response) : Prop := q = r ∨ ∃ a b, q = some (.readOk a) ∧ r = some (.readOk b)

/-- The same state, but for what the lanes and the buffer hold and the data of the last read. -/
def State.sameButData (s t : State) : Prop :=
  t = { s with lanes := t.lanes, block := t.block, response := t.response } ∧ sameAnswer s.response t.response

/-- `A[x,y]` of 25 lanes, with `x` and `y` in [0,5) and their sums mod 5 (R12), written apart from the model's own index
mux. -/
def grid (A : Lanes) (x y : Fin 5) : Word := A[5 * y.val + x.val]

/-- RATE_BYTES of the active variant (R150). -/
def State.rateBytes (s : State) : Nat := (s.activeVariant.map Variant.rateBytes).getD 0

/-- The error a write of `w` to CMD raises when ERR = 0, or none: the checks of R86 in their order, on the word as a
number, written apart from the decoder and the commands' own checks. -/
def refusalOf (w : Word) (s : State) : Option CmdError :=
  let op := w.toNat % 256
  let len := w.toNat / 256 % 256
  let ir := w.toNat / 65536 % 32
  if s.busy then some .busy
  else if op ∉ [0x00, 0x01, 0x02, 0x03, 0x04, 0x08, 0x09, 0x10, 0x11, 0x12, 0x13, 0x14] then some .illegalOpcode
  else if w.toNat / 2 ^ 21 ≠ 0 ∨ (len ≠ 0 ∧ op ≠ 0x03) ∨ (ir ≠ 0 ∧ op ∉ [0x09, 0x14]) then some .reservedField
  else if op ∈ [0x02, 0x03] ∧ s.phase ≠ .absorb then some .badPhase
  else if op = 0x04 ∧ s.phase ≠ .squeeze then some .badPhase
  else if op = 0x01 ∧ s.cfgVariant.toNat ∉ [1, 2, 3, 4] then some .badConfig
  else if op = 0x03 ∧ s.rateBytes ≤ len then some .badArgument
  else if op ∈ [0x09, 0x14] ∧ 24 ≤ ir then some .badArgument
  else none

end Sys2Proof.Machine
end

