-- ==== Sys2Proof/Certificates/Slice0/Obligations.lean ====
section
/-! DEFINITION. The statements for the provers. -/

open Sys2Proof Sys2Proof.Machine

/-! ## Words and commands -/

/-- Decoding the word of a well-formed command gives the command back, whatever its operand (R82, R91). -/
def Obligations.DecodeOfEncodeGivesTheCommand : Prop :=
  ∀ i : Instr, i.wf = true → decode (encode i) = .ok i

/-- R84: a word names the command of a row exactly when it matches the row, no two rows match one word, and a word no
row matches is refused with ILLEGAL_OPCODE or RESERVED_FIELD by whether its OPCODE is listed. -/
def Obligations.DecoderAgreesWithOpcodeTable : Prop :=
  (∀ r ∈ opcodeTable, ∀ w : Word, w &&& r.mask = r.value ↔ ∃ i, decode w = .ok i ∧ i.mnemonic = r.mnemonic) ∧
  (∀ r ∈ opcodeTable, ∀ q ∈ opcodeTable, ∀ w : Word,
    w &&& r.mask = r.value → w &&& q.mask = q.value → r = q) ∧
  (∀ r ∈ opcodeTable, r.mask =
    if r.mnemonic = "ABSORB_LAST" then 0xFFFFFFFFFFFF00FF
    else if r.mnemonic = "ROUND" ∨ r.mnemonic = "IOTA" then 0xFFFFFFFFFFE0FFFF else 0xFFFFFFFFFFFFFFFF) ∧
  (∀ w : Word, (∀ r ∈ opcodeTable, w &&& r.mask ≠ r.value) →
    decode w = if w.toNat % 256 ∈ [0, 1, 2, 3, 4, 8, 9, 0x10, 0x11, 0x12, 0x13, 0x14]
      then .error .reservedField else .error .illegalOpcode)

/-- R92, the worked encodings: three commands and their words, and what the three refused words raise in every state
that could accept a command. -/
def Obligations.WorkedEncodingsDecode : Prop :=
  encode (.absorbLast 3) = 0x0000000000000303 ∧ encode (.round 5) = 0x0000000000050009 ∧
  encode (.iota 23) = 0x0000000000170014 ∧
  decode 0x0000000000000303 = .ok (.absorbLast 3) ∧
  decode 0x0000000000050009 = .ok (.round 5) ∧
  decode 0x0000000000170014 = .ok (.iota 23) ∧
  ∀ s : State, s.err = none → s.busy = false →
    (s.hostWrites .cmd 0x0000000000200009 → ∃ t, step s = .next t ∧ t.err = some .reservedField ∧ t.cmd = s.cmd) ∧
    (s.hostWrites .cmd 0x0000000000180009 → ∃ t, step s = .next t ∧ t.err = some .badArgument ∧ t.cmd = s.cmd) ∧
    (s.hostWrites .cmd 0x0000000000000105 → ∃ t, step s = .next t ∧ t.err = some .illegalOpcode ∧ t.cmd = s.cmd)

/-- A step runs the decoded command: a write to CMD of a word that names a command is exec of it, and so is the core's
move with that command in flight; nothing is added around exec. That one function exec is both events of a command is
the model's own arrangement, inferred from R85 (log 1). -/
def Obligations.StepRunsTheDecodedCommand : Prop :=
  (∀ (s : State) (w : Word) (i : Instr), s.hostWrites .cmd w → decode w = .ok i → step s = exec i s) ∧
  (∀ (s : State) (i : Instr) (v : BitVec 3), s.completing i v → step s = exec i s)

/-! ## Acceptance and errors -/

/-- R86 and R87: what a write of any word to CMD does, in every state but those with PHASE = ABSORB and no active
variant, which no run reaches. A write while ERR = 1 changes nothing; a refusal only records its code; an accepted word
is stored, its record captured with the command that its OPCODE, LEN and IR bits name and with CONFIG.VARIANT, BUSY set
and DONE cleared, and the bus answers OK (R53). `program`, `turns` and `response` are the model's own fields (logs 2, 3
and 15); how the bus answers a refused or ignored word is left open here (log 7). -/
def Obligations.CmdWriteFollowsTheAcceptanceProcedure : Prop :=
  ∀ (s : State) (w : Word), s.hostWrites .cmd w → (s.phase = .absorb → s.activeVariant ≠ none) →
    let after : State := { s with program := s.program.tail, turns := s.turns.tail }
    let len := w.toNat / 256 % 256
    let ir := w.toNat / 65536 % 32
    (∃ answer,
      (s.err ≠ none → step s = .next { after with response := some answer }) ∧
      (s.err = none → ∀ e, refusalOf w s = some e →
        step s = .next { after with response := some answer, err := some e })) ∧
    (s.err = none → refusalOf w s = none → ∃ i,
      (w.toNat % 256, i) ∈ [(0x00, .nop), (0x01, .init), (0x02, .absorb), (0x03, .absorbLast len), (0x04, .squeeze),
        (0x08, .permute), (0x09, .round ir), (0x10, .theta), (0x11, .rho), (0x12, .pi), (0x13, .chi),
        (0x14, .iota ir)] ∧
      step s = .next { after with
        response := some .writeOk, cmd := w, inflight := some ⟨i, s.cfgVariant⟩, done := false })

/-- An accepted command completes at the core's next move, whatever the host does before it (R85, R88, R181): from
states that meet the invariant, an accepted write of a word to CMD leads to BUSY = 1; a host's move other than the reset
event keeps the command in flight, and CMD; the core's move with a command in flight leads to BUSY = 0 and DONE = 1,
with CMD and the recorded error as before. -/
def Obligations.AcceptedCommandCompletes : Prop :=
  (∀ (s : State) (w : Word), s.Inv → s.hostWrites .cmd w → s.err = none → refusalOf w s = none →
    ∃ t, step s = .next t ∧ t.busy = true ∧ t.cmd = w ∧ t.err = none) ∧
  (∀ s : State, s.Inv → s.busy = true → s.mover = .host → ¬s.resetComes →
    ∃ t, step s = .next t ∧ t.inflight = s.inflight ∧ t.cmd = s.cmd) ∧
  (∀ s : State, s.Inv → s.busy = true → s.mover = .core →
    ∃ t, step s = .next t ∧ t.busy = false ∧ t.done = true ∧ t.cmd = s.cmd ∧ t.err = s.err)

/-- R183: a write to STATUS with bit 2 = 1 clears ERR and ERR_CODE, nothing else clears them except reset, and clearing
neither starts nor undoes anything. -/
def Obligations.ErrorsAreClearedOnlyByStatusWriteOrReset : Prop :=
  (∀ (s : State) (v : Word), s.hostWrites .status v → v.getLsbD 2 = true →
    ∃ t, step s = .next t ∧ t.err = none ∧ t.cmd = s.cmd ∧ t.inflight = s.inflight ∧ t.phase = s.phase ∧
      t.activeVariant = s.activeVariant ∧ t.lanes = s.lanes ∧ t.block = s.block) ∧
  (∀ s t : State, step s = .next t → s.err ≠ none → t.err = none →
    s.resetComes ∨ ∃ v : Word, s.hostWrites .status v ∧ v.getLsbD 2 = true)

/-- The first error since ERR was last clear is kept: a step never replaces a recorded code by another (R182, R191). -/
def Obligations.FirstErrorIsKept : Prop :=
  ∀ (s t : State) (e : CmdError), step s = .next t → s.err = some e → t.err = some e ∨ t.err = none

/-- An access of another size than 8 bytes, misaligned, or to an unmapped offset is a bus error (R51, R53): ERROR on the
bus, 0 for a read, BUS_ERROR recorded if ERR = 0, and nothing else changes; the host goes on (log 6). -/
def Obligations.BadAccessIsBusError : Prop :=
  ∀ (s : State) (offset : Fin 0x400) (size : Nat), s.mover = .host →
    (size ≠ 8 ∨ offset.val % 8 ≠ 0 ∨ (0x0C8 ≤ offset.val ∧ offset.val < 0x100) ∨
      (0x190 ≤ offset.val ∧ offset.val < 0x1C0) ∨ (0x1E8 ≤ offset.val ∧ offset.val < 0x200) ∨
      0x2C0 ≤ offset.val) →
    (∀ rest, s.program = .read offset size :: rest →
      step s = .next { s with program := rest, turns := s.turns.tail, response := some (.readError 0),
                              err := some (s.err.getD .busError) }) ∧
    (∀ rest (v : Word), s.program = .write offset size v :: rest →
      step s = .next { s with program := rest, turns := s.turns.tail, response := some .writeError,
                              err := some (s.err.getD .busError) })

/-- The address map (R51): an aligned 8-byte access reaches exactly the register the map gives its offset. -/
def Obligations.AddressMapOfTheWindow : Prop :=
  ∀ (offset : Fin 0x400) (r : Reg), decodeAccess offset 8 = some r ↔
    match r with
    | .state i => offset.val = 0x000 + 8 * i.val
    | .block j => offset.val = 0x100 + 8 * j.val
    | .cmd => offset.val = 0x1C0
    | .status => offset.val = 0x1C8
    | .config => offset.val = 0x1D0
    | .param => offset.val = 0x1D8
    | .info => offset.val = 0x1E0
    | .rc k => offset.val = 0x200 + 8 * k.val

/-! ## Registers -/

/-- Reading a register changes nothing but the bus, and gives its exact value; STATE reads are exact while BUSY = 0
(R51, R52, R58). For a lane or block word that has no value it is the draw the model holds there (log 4). -/
def Obligations.ReadsAreExactAndHaveNoSideEffect : Prop :=
  ∀ (s : State) (r : Reg), s.hostReads r → ((∃ i, r = .state i) → s.busy = false) →
    step s = .next { s with
      program := s.program.tail
      turns := s.turns.tail
      response := some (.readOk (match r with
        | .state i => s.lanes[i]
        | .block j => s.block[j]
        | .cmd => s.cmd
        | .status => statusWord s
        | .config => configWord s
        | .param => paramWord s.activeVariant
        | .info => 0x0000_001E_1218_1901
        | .rc k => roundConstants[k])) }

/-- A STATE read while BUSY = 1 responds OK with some value, and no register, lane or word changes (R58). The count of
draws is the model's own (log 5). -/
def Obligations.StateReadWhileBusyChangesNoRegister : Prop :=
  ∀ (s : State) (i : Fin 25), s.hostReads (.state i) → s.busy = true →
    ∃ v n, step s = .next { s with
      program := s.program.tail, turns := s.turns.tail, response := some (.readOk v), draws := n }

/-- STATE and BLOCK writes while BUSY = 0 set that lane or word, which has a value then (R22, R23), and nothing else;
while BUSY = 1 they raise BUSY and change no lane and no word (R58). That the bus answers OK to a refused write is the
model's inference (log 7). -/
def Obligations.StateAndBlockWrites : Prop :=
  ∀ (s : State) (v : Word),
    let after : State := { s with program := s.program.tail, turns := s.turns.tail, response := some .writeOk }
    (∀ i : Fin 25, s.hostWrites (.state i) v → s.busy = false →
      step s = .next { after with lanes := s.lanes.set i.val v, laneSet := s.laneSet.set i.val true }) ∧
    (∀ j : Fin 18, s.hostWrites (.block j) v → s.busy = false →
      step s = .next { after with block := s.block.set j.val v, blockSet := s.blockSet.set j.val true }) ∧
    (∀ i : Fin 25, s.hostWrites (.state i) v → s.busy = true →
      step s = .next { after with err := some (s.err.getD .busy) }) ∧
    (∀ j : Fin 18, s.hostWrites (.block j) v → s.busy = true →
      step s = .next { after with err := some (s.err.getD .busy) })

/-- Writes to PARAM, INFO and RC[k] respond OK and change nothing (R53). -/
def Obligations.ReadOnlyRegistersIgnoreWrites : Prop :=
  ∀ (s : State) (v : Word) (r : Reg), (r = .param ∨ r = .info ∨ ∃ k, r = .rc k) → s.hostWrites r v →
    step s = .next { s with program := s.program.tail, turns := s.turns.tail, response := some .writeOk }

/-- R31: a write to STATUS clears DONE by bit 1 and ERR with ERR_CODE by bit 2, and does nothing else; it is accepted at
all times and raises no error. -/
def Obligations.StatusWriteClearsByBits : Prop :=
  ∀ (s : State) (v : Word), s.hostWrites .status v →
    step s = .next { s with
      done := s.done && !v.getLsbD 1
      err := if v.getLsbD 2 then none else s.err
      program := s.program.tail
      turns := s.turns.tail
      response := some .writeOk }

/-- R32: a write to CONFIG is accepted at all times, stores bits 2:0, 8 and 9, whatever they are, drops the others, and
changes no other register: VARIANT, which INIT captures, is bits 2:0, the interrupt enables are bits 8 and 9, and CONFIG
reads back the value with the reserved bits 0. -/
def Obligations.ConfigWriteKeepsItsFields : Prop :=
  ∀ (s : State) (v : Word), s.hostWrites .config v →
    ∃ t, step s = .next t ∧ configWord t = v &&& 0x307 ∧
      t = { s with
        cfgVariant := v.extractLsb' 0 3
        irqEnDone := v.getLsbD 8
        irqEnErr := v.getLsbD 9
        program := s.program.tail
        turns := s.turns.tail
        response := some .writeOk }

/-- The layout of STATUS (R25): each field at its bits, every reserved bit 0. -/
def Obligations.StatusLayout : Prop :=
  ∀ s : State,
    (statusWord s).getLsbD 0 = s.busy ∧ (statusWord s).getLsbD 1 = s.done ∧
    (statusWord s).getLsbD 2 = s.err.isSome ∧ (statusWord s).getLsbD 3 = false ∧
    ((statusWord s).extractLsb' 4 2).toNat =
      (match s.phase with | .idle => 0 | .absorb => 1 | .squeeze => 2) ∧
    (statusWord s).extractLsb' 6 2 = 0 ∧
    ((statusWord s).extractLsb' 8 3).toNat =
      (match s.activeVariant with
        | none => 0 | some .sha3x224 => 1 | some .sha3x256 => 2 | some .sha3x384 => 3 | some .sha3x512 => 4) ∧
    (statusWord s).extractLsb' 11 5 = 0 ∧
    ((statusWord s).extractLsb' 16 4).toNat =
      (match s.err with
        | none => 0 | some .busy => 1 | some .illegalOpcode => 2 | some .reservedField => 3 | some .badPhase => 4
        | some .badConfig => 5 | some .badArgument => 6 | some .busError => 7) ∧
    (statusWord s).extractLsb' 20 44 = 0

/-- PARAM by the active variant: the values of R34's table. -/
def Obligations.ParamValues : Prop :=
  paramWord none = 0 ∧ paramWord (some .sha3x224) = 0x01C0_0480_071C_9012 ∧
  paramWord (some .sha3x256) = 0x0200_0440_0820_8811 ∧ paramWord (some .sha3x384) = 0x0300_0340_0C30_680D ∧
  paramWord (some .sha3x512) = 0x0400_0240_1040_4809

/-- The interrupt output in terms of the two registers a host sees (R187): bit 1 of STATUS with bit 8 of CONFIG, or bit 2
of STATUS with bit 9 of CONFIG. -/
def Obligations.IrqFromStatusAndConfig : Prop :=
  ∀ s : State, s.irq =
    ((statusWord s).getLsbD 1 && (configWord s).getLsbD 8 || (statusWord s).getLsbD 2 && (configWord s).getLsbD 9)

/-! ## Reset and the invariant -/

/-- The reset values R41 gives: CMD, STATUS, CONFIG and PARAM 0, no command in flight, irq 0. The lanes and block words
are unspecified: none has a value (the marks are the model's own, log 4). -/
def Obligations.ResetLeavesTheStatedValues : Prop :=
  State.reset.cmd = 0 ∧ statusWord State.reset = 0 ∧ configWord State.reset = 0 ∧
  paramWord State.reset.activeVariant = 0 ∧ State.reset.inflight = none ∧ State.reset.irq = false ∧
  (∀ i : Fin 25, State.reset.laneSet[i] = false) ∧ ∀ j : Fin 18, State.reset.blockSet[j] = false

/-- The reset event at any time (R200, R201): the registers take their reset values, a command in flight is abandoned,
irq is 0, and no lane or block word has a value (log 4). That the world outside goes on with its next input is the
model's choice (log 15). -/
def Obligations.ResetEventAbandonsTheCommand : Prop :=
  ∀ s : State, s.resetComes → ∃ t, step s = .next t ∧ t.cmd = 0 ∧ statusWord t = 0 ∧ configWord t = 0 ∧
    paramWord t.activeVariant = 0 ∧ t.inflight = none ∧ t.irq = false ∧ t.program = s.program.tail ∧
    t.turns = s.turns.tail ∧ (∀ i : Fin 25, t.laneSet[i] = false) ∧ ∀ j : Fin 18, t.blockSet[j] = false

/-- The invariant holds at reset. -/
def Obligations.InvariantHoldsAtReset : Prop := State.reset.Inv

/-- Every step keeps the invariant: ACTIVE_VARIANT is 0 exactly in phase IDLE (R30), CMD holds a legal word (R24), the
record in flight agrees with CMD (R38) and meets the conditions of its acceptance (R86), and DONE = 0 while BUSY = 1
(R28). -/
def Obligations.StepKeepsTheInvariant : Prop :=
  ∀ s t : State, s.Inv → step s = .next t → t.Inv

/-- The core never stops (R181, R188): every state that meets the invariant has a next state. That it has one after a bus
error too is the model's choice between R53 and U5 of spec/93 (log 6). -/
def Obligations.StepNeverStops : Prop :=
  ∀ s : State, s.Inv → ∃ t, step s = .next t

/-! ## Which steps change what -/

/-- PHASE changes only at the completions of INIT (to ABSORB) and ABSORB_LAST (to SQUEEZE) and at reset (to IDLE)
(R27). -/
def Obligations.PhaseChangesOnlyByInitAbsorbLastReset : Prop :=
  ∀ s t : State, step s = .next t → t.phase ≠ s.phase →
    (∃ v, s.completing .init v ∧ t.phase = .absorb) ∨
    (∃ n v, s.completing (.absorbLast n) v ∧ t.phase = .squeeze) ∨
    (s.resetComes ∧ t.phase = .idle)

/-- ACTIVE_VARIANT is written only at the completion of INIT, with the variant captured at its acceptance, and by reset,
which sets it to 0 (R30). -/
def Obligations.ActiveVariantChangesOnlyByInitReset : Prop :=
  ∀ s t : State, step s = .next t → t.activeVariant ≠ s.activeVariant →
    (∃ v, s.completing .init v ∧ activeCode t.activeVariant = v) ∨ (s.resetComes ∧ t.activeVariant = none)

/-- The state RAM changes only at the completion of a command other than NOP, by a host write to STATE while BUSY = 0,
which sets that lane, or by reset (R20, R58). -/
def Obligations.LanesChangeOnlyByCompletionStateWriteReset : Prop :=
  ∀ s t : State, step s = .next t → t.lanes ≠ s.lanes →
    (∃ i v, s.completing i v ∧ i ≠ .nop) ∨
    (∃ (i : Fin 25) (v : Word), s.hostWrites (.state i) v ∧ s.busy = false ∧ t.lanes = s.lanes.set i.val v) ∨
    s.resetComes

/-- The core never writes the block buffer (R23): it changes only by a host write to BLOCK while BUSY = 0, which sets
that word, or by reset. -/
def Obligations.BlockChangesOnlyByHostWriteReset : Prop :=
  ∀ s t : State, step s = .next t → t.block ≠ s.block →
    (∃ (j : Fin 18) (v : Word), s.hostWrites (.block j) v ∧ s.busy = false ∧ t.block = s.block.set j.val v) ∨
    s.resetComes

/-- CMD changes only by accepting a word, which sets BUSY and stores that word, or by reset; a refused word is not stored
(R24). -/
def Obligations.CmdChangesOnlyByAcceptanceReset : Prop :=
  ∀ s t : State, step s = .next t → t.cmd ≠ s.cmd →
    (s.hostWrites .cmd t.cmd ∧ s.err = none ∧ s.busy = false ∧ t.busy = true) ∨ s.resetComes

/-- CONFIG changes only by a host write to CONFIG or by reset (R32). -/
def Obligations.ConfigChangesOnlyByHostWriteReset : Prop :=
  ∀ s t : State, step s = .next t → configWord t ≠ configWord s →
    (∃ v : Word, s.hostWrites .config v) ∨ s.resetComes

/-- BUSY is set only by accepting a command, and cleared only by its completion, which sets DONE, or by reset (R26,
R28). -/
def Obligations.BusyChangesOnlyByAcceptanceCompletionReset : Prop :=
  ∀ s t : State, step s = .next t →
    (s.busy = false → t.busy = true → ∃ w, s.hostWrites .cmd w ∧ t.cmd = w ∧ t.done = false) ∧
    (s.busy = true → t.busy = false → (∃ i v, s.completing i v ∧ t.done = true) ∨ s.resetComes)

/-- The frame of every completion: the buffer, CMD, CONFIG, ERR and ERR_CODE, the host's program and the bus are
unchanged, so no error arises during execution (R181), and BUSY and DONE end as R88 says. Which lanes have a value, and
the count of draws, are the model's own fields (log 4); the draws change only when the lanes become unknown. -/
def Obligations.CompletionFrame : Prop :=
  ∀ (s t : State) (i : Instr) (v : BitVec 3), s.completing i v → exec i s = .next t →
    (t = { s with
      lanes := t.lanes
      laneSet := t.laneSet
      phase := t.phase
      activeVariant := t.activeVariant
      inflight := none
      done := true
      turns := s.turns.tail
      draws := t.draws }) ∧
    (t.draws ≠ s.draws → ∀ i : Fin 25, t.laneSet[i] = false)

/-- Two states that differ only in what the lanes and the buffer hold, and in the data of the last read answered OK, still
differ in nothing else after a step: which command is accepted, every error, every flag, every other register and the kind
of every answer on the bus do not depend on these. So the unspecified values after reset (R22, R23) reach nothing else. -/
def Obligations.ControlDoesNotDependOnLanesOrBlock : Prop :=
  ∀ s s' t : State, s.sameButData s' → step s = .next t → ∃ t', step s' = .next t' ∧ t.sameButData t'

/-! ## The commands -/

/-- NOP completes in every state with it in flight, and changes BUSY and DONE only (R155). -/
def Obligations.NopCompletes : Prop :=
  ∀ (s : State) (v : BitVec 3), s.completing .nop v →
    exec .nop s = .next { s with inflight := none, done := true, turns := s.turns.tail }

/-- INIT completes with a captured variant in 1..4: all 25 lanes 0 and with a value (R22), ACTIVE_VARIANT that
variant, PHASE ABSORB, and nothing else but BUSY and DONE (R156). -/
def Obligations.InitCompletes : Prop :=
  ∀ (s : State) (v : BitVec 3), s.completing .init v → v.toNat ∈ [1, 2, 3, 4] →
    ∃ L a, exec .init s = .next { s with
        lanes := L, laneSet := Vector.replicate 25 true, activeVariant := some a, phase := .absorb,
        inflight := none, done := true, turns := s.turns.tail } ∧
      activeCode (some a) = v ∧ ∀ i : Fin 25, L[i] = 0

/-- ABSORB completes with an active variant, when every lane and every rate word has a value: the first RATE_LANES words
of the buffer are XORed into the lanes, the others are not, and the permutation follows; nothing else but BUSY and DONE
changes (R157). -/
def Obligations.AbsorbCompletes : Prop :=
  ∀ (s : State) (v : BitVec 3) (a : Variant) (rl : Nat), s.completing .absorb v → s.activeVariant = some a →
    (a, rl) ∈ [(.sha3x224, 18), (.sha3x256, 17), (.sha3x384, 13), (.sha3x512, 9)] →
    s.AllLanesSet → s.WordsSetBelow rl →
    ∃ M : Lanes, exec .absorb s = .next { s with
        lanes := keccakP M, inflight := none, done := true, turns := s.turns.tail } ∧
      (∀ i : Fin 18, i.val < rl → M[i.val] = s.lanes[i.val] ^^^ s.block[i.val]) ∧
      (∀ i : Fin 25, rl ≤ i.val → M[i.val] = s.lanes[i.val])

/-- ABSORB_LAST completes with an active variant and n < RATE_BYTES, when every lane and every word that holds one of
the n bytes has a value: each of the first RATE_BYTES state bytes is XORed with its message byte, if it has one, with
0x06 at n and 0x80 at RATE_BYTES − 1, the capacity bytes are not, the permutation follows, and PHASE is SQUEEZE (R152,
R154, R158). -/
def Obligations.AbsorbLastCompletes : Prop :=
  ∀ (s : State) (v : BitVec 3) (a : Variant) (rate n : Nat), s.completing (.absorbLast n) v →
    s.activeVariant = some a →
    (a, rate) ∈ [(.sha3x224, 144), (.sha3x256, 136), (.sha3x384, 104), (.sha3x512, 72)] → n < rate →
    s.AllLanesSet → s.WordsSetBelow ((n + 7) / 8) →
    ∃ M : Lanes, exec (.absorbLast n) s = .next { s with
        lanes := keccakP M, phase := .squeeze, inflight := none, done := true, turns := s.turns.tail } ∧
      ∀ k < 200, stateByte M k = stateByte s.lanes k ^^^
        if k < rate then
          (if k < n then blockByte s.block k else 0) ||| (if k = n then 0x06 else 0)
            ||| (if k = rate - 1 then 0x80 else 0)
        else 0

/-- SQUEEZE completes, when every lane has a value: the permutation, and nothing else but BUSY and DONE (R159). -/
def Obligations.SqueezeCompletes : Prop :=
  ∀ (s : State) (v : BitVec 3), s.completing .squeeze v → s.AllLanesSet →
    exec .squeeze s = .next { s with
      lanes := keccakP s.lanes, inflight := none, done := true, turns := s.turns.tail }

/-- PERMUTE completes, when every lane has a value: the permutation, and nothing else but BUSY and DONE (R143). -/
def Obligations.PermuteCompletes : Prop :=
  ∀ (s : State) (v : BitVec 3), s.completing .permute v → s.AllLanesSet →
    exec .permute s = .next { s with
      lanes := keccakP s.lanes, inflight := none, done := true, turns := s.turns.tail }

/-- ROUND completes with IR in 0..23, when every lane has a value: theta, rho, pi, chi, iota in that order, and nothing
else but BUSY and DONE (R140, R142). -/
def Obligations.RoundCompletes : Prop :=
  ∀ (s : State) (v : BitVec 3) (ir : Fin 24), s.completing (.round ir.val) v → s.AllLanesSet →
    exec (.round ir.val) s = .next { s with
      lanes := iota (chi (pi (rho (theta s.lanes)))) ir, inflight := none, done := true, turns := s.turns.tail }

/-- THETA completes, when every lane has a value, with R112's value at every coordinate, and nothing else but BUSY and
DONE changes. -/
def Obligations.ThetaCompletes : Prop :=
  ∀ (s : State) (v : BitVec 3), s.completing .theta v → s.AllLanesSet →
    ∃ L : Lanes, exec .theta s = .next { s with
        lanes := L, inflight := none, done := true, turns := s.turns.tail } ∧
      ∀ x y : Fin 5,
        let A := grid s.lanes
        let C : Fin 5 → Word := fun x => A x 0 ^^^ A x 1 ^^^ A x 2 ^^^ A x 3 ^^^ A x 4
        grid L x y = A x y ^^^ (C (x - 1) ^^^ (C (x + 1)).rotateLeft 1)

/-- RHO completes, when every lane has a value: bit b of the lane at (x,y) moves to bit b + ROT[x,y] mod 64, with R114's
table, and nothing else but BUSY and DONE changes (R115). -/
def Obligations.RhoCompletes : Prop :=
  ∀ (s : State) (v : BitVec 3), s.completing .rho v → s.AllLanesSet →
    ∃ L : Lanes, exec .rho s = .next { s with
        lanes := L, inflight := none, done := true, turns := s.turns.tail } ∧
      ∀ x y : Fin 5, ∀ b < 64,
        let row := [[0, 1, 62, 28, 27], [36, 44, 6, 55, 20], [3, 10, 43, 25, 39], [41, 45, 15, 21, 8],
          [18, 2, 61, 56, 14]].getD y.val []
        (grid L x y).getLsbD ((b + row.getD x.val 0) % 64) = (grid s.lanes x y).getLsbD b

/-- PI completes, when every lane has a value: `A'[x,y] = A[(x+3y) mod 5, x]`, and nothing else but BUSY and DONE
changes (R116, R117). -/
def Obligations.PiCompletes : Prop :=
  ∀ (s : State) (v : BitVec 3), s.completing .pi v → s.AllLanesSet →
    ∃ L : Lanes, exec .pi s = .next { s with
        lanes := L, inflight := none, done := true, turns := s.turns.tail } ∧
      ∀ x y : Fin 5, grid L x y = grid s.lanes (x + 3 * y) x

/-- CHI completes, when every lane has a value, with R118's value at every coordinate, and nothing else but BUSY and
DONE changes. -/
def Obligations.ChiCompletes : Prop :=
  ∀ (s : State) (v : BitVec 3), s.completing .chi v → s.AllLanesSet →
    ∃ L : Lanes, exec .chi s = .next { s with
        lanes := L, inflight := none, done := true, turns := s.turns.tail } ∧
      ∀ x y : Fin 5, grid L x y = grid s.lanes x y ^^^ (~~~(grid s.lanes (x + 1) y) &&& grid s.lanes (x + 2) y)

/-- IOTA completes with IR in 0..23, when every lane has a value: RC[IR] goes into lane (0,0) only, and nothing else but
BUSY and DONE changes (R122). -/
def Obligations.IotaCompletes : Prop :=
  ∀ (s : State) (v : BitVec 3) (ir : Fin 24), s.completing (.iota ir.val) v → s.AllLanesSet →
    ∃ L : Lanes, exec (.iota ir.val) s = .next { s with
        lanes := L, inflight := none, done := true, turns := s.turns.tail } ∧
      grid L 0 0 = grid s.lanes 0 0 ^^^ roundConstants[ir] ∧
      ∀ x y : Fin 5, ¬(x = 0 ∧ y = 0) → grid L x y = grid s.lanes x y

/-- The stops of the model (log 10): the completions that acceptance rules out (R86, R30). INIT stops with a captured
variant outside 1..4, ABSORB and ABSORB_LAST with no active variant, ABSORB_LAST with LEN ≥ RATE_BYTES, ROUND and IOTA
with IR ≥ 24. -/
def Obligations.CompletionsStopWhereAcceptanceRefuses : Prop :=
  ∀ (s : State) (i : Instr) (v : BitVec 3), s.completing i v →
    (i = .init → v.toNat ∉ [1, 2, 3, 4] → exec i s = .fault .invalidVariantInFlight) ∧
    (i = .absorb → s.activeVariant = none → exec i s = .fault .noActiveVariant) ∧
    (∀ n, i = .absorbLast n →
      (s.activeVariant = none → exec i s = .fault .noActiveVariant) ∧
      (∀ a rate, s.activeVariant = some a →
        (a, rate) ∈ [(.sha3x224, 144), (.sha3x256, 136), (.sha3x384, 104), (.sha3x512, 72)] → rate ≤ n →
        exec i s = .fault .lengthOutOfRange)) ∧
    (∀ ir, i = .round ir ∨ i = .iota ir → 24 ≤ ir → exec i s = .fault .noRoundConstant)

/-! ## The algorithm -/

/-- ROUND ir equals the five commands THETA, RHO, PI, CHI, IOTA ir issued in that order (R142), from lanes that have a
value. -/
def Obligations.RoundEqualsTheFiveStepCommands : Prop :=
  ∀ (ir : Fin 24) (v : BitVec 3) (a₁ a₂ a₃ a₄ a₅ b₁ b₂ b₃ b₄ b₅ s : State),
    a₁.AllLanesSet → a₁.completing .theta v → exec .theta a₁ = .next b₁ →
    a₂.completing .rho v → a₂.continues b₁ → exec .rho a₂ = .next b₂ →
    a₃.completing .pi v → a₃.continues b₂ → exec .pi a₃ = .next b₃ →
    a₄.completing .chi v → a₄.continues b₃ → exec .chi a₄ = .next b₄ →
    a₅.completing (.iota ir.val) v → a₅.continues b₄ → exec (.iota ir.val) a₅ = .next b₅ →
    s.completing (.round ir.val) v → s.continues a₁ →
    ∃ t, exec (.round ir.val) s = .next t ∧ t.lanes = b₅.lanes

/-- The commands ROUND 0, ROUND 1, ..., ROUND 23 in order equal one PERMUTE (R141, R142), from lanes that have a value:
`a ir` is the state in which ROUND ir completes, `b ir` the state it ends in. -/
def Obligations.PermuteEqualsTheRoundsInOrder : Prop :=
  ∀ (v : BitVec 3) (a b : Fin 24 → State) (s : State),
    (a 0).AllLanesSet → (∀ ir : Fin 24, (a ir).completing (.round ir.val) v ∧ exec (.round ir.val) (a ir) = .next (b ir)) →
    (∀ ir jr : Fin 24, jr.val = ir.val + 1 → (a jr).continues (b ir)) →
    s.completing .permute v → s.continues (a 0) →
    ∃ t, exec .permute s = .next t ∧ t.lanes = (b 23).lanes

/-- Applying PI 24 times returns every lane to its place, since the map is one 24-cycle (R127). -/
def Obligations.PiHasOrderTwentyFour : Prop :=
  (∀ A : Lanes, Nat.iterate pi 24 A = A) ∧
  ∀ k, 0 < k → k < 24 → ∃ A : Lanes, Nat.iterate pi k A ≠ A

/-- IOTA with the same IR applied twice restores the state (R129). -/
def Obligations.IotaTwiceRestoresTheState : Prop :=
  ∀ (A : Lanes) (ir : Fin 24), iota (iota A ir) ir = A

/-- R113: along the traversal (x,y) = (1,0) → (y, 2x+3y mod 5), the t-th lane visited has the offset (t+1)(t+2)/2 mod 64,
lane (0,0) has none, and the traversal visits each of the 24 other lanes exactly once. -/
def Obligations.RhoOffsetsFollowTheSchedule : Prop :=
  let visit : Nat → Nat × Nat := fun t => Nat.iterate (fun p => (p.2, (2 * p.1 + 3 * p.2) % 5)) t (1, 0)
  (∀ t < 24, rhoOffsets[idx (visit t).1 (visit t).2] = (t + 1) * (t + 2) / 2 % 64) ∧
  rhoOffsets[idx 0 0] = 0 ∧
  ∀ x y : Fin 5, ¬(x = 0 ∧ y = 0) → ∃ t < 24, visit t = (x.val, y.val) ∧ ∀ u < 24, visit u = (x.val, y.val) → u = t

/-- R120: RC[ir] has bit 2^j − 1 equal to rc(j + 7*ir) for j = 0..6, and every other bit 0. -/
def Obligations.RoundConstantsComeFromTheGenerator : Prop :=
  ∀ ir : Fin 24,
    (∀ j < 7, roundConstants[ir].getLsbD (2 ^ j - 1) = rcBit (j + 7 * ir.val)) ∧
    ∀ b < 64, (∀ j < 7, b ≠ 2 ^ j - 1) → roundConstants[ir].getLsbD b = false

/-- R153, the corner cases of the final block: with n message bytes in a block of R bytes, n ≤ R − 2, the block is the
message, 06, zeros, 80; with n = R − 1 it is the message and 86. -/
def Obligations.PaddingCornerCases : Prop :=
  ∀ (a : Variant) (msg : List Byte),
    (msg.length + 2 ≤ a.rateBytes → pad msg msg.length a.rateBytes =
      msg ++ [0x06] ++ List.replicate (a.rateBytes - 2 - msg.length) 0 ++ [0x80]) ∧
    (msg.length + 1 = a.rateBytes → pad msg msg.length a.rateBytes = msg ++ [0x86])

/-- The digest read out of the lanes (R160): OUT_BYTES bytes, byte k being byte k mod 8 of STATE[k div 8], least
significant byte first. -/
def Obligations.DigestReadout : Prop :=
  ∀ (a : Variant) (outBytes : Nat) (A : Lanes),
    (a, outBytes) ∈ [(.sha3x224, 28), (.sha3x256, 32), (.sha3x384, 48), (.sha3x512, 64)] →
    (digestOf a A).length = outBytes ∧
    ∀ (k : Nat) (h : k / 8 < 25), k < outBytes →
      (digestOf a A).getD k 0 = BitVec.ofNat 8 (A[k / 8].toNat / 256 ^ (k % 8))

/-- WAIT reads STATUS and is over when BUSY reads 0 (R91). That it is one poll a turn, and stays the host's next input
while a command is in flight, is the model's reading (log 17). -/
def Obligations.WaitPollsStatus : Prop :=
  ∀ (s : State) (rest : List Input), s.mover = .host → s.program = .wait :: rest →
    step s = .next { s with
      program := if s.busy then .wait :: rest else rest
      turns := s.turns.tail
      response := some (.readOk (statusWord s)) }

/-- LOADMSG (R91): a message of at most 144 bytes is ceil(len/8) writes, the j-th to BLOCK[j], with message byte 8j+k in
byte k of its word and 0 where the message has ended. -/
def Obligations.LoadmsgWritesTheMessage : Prop :=
  ∀ bytes : List Byte, bytes.length ≤ 144 →
    ∃ ins, Line.expand (.loadmsg bytes) = some ins ∧ ins.length = (bytes.length + 7) / 8 ∧
      ∀ j : Fin 18, j.val < ins.length → ∃ w, ins[j.val]? = some (.write (Reg.block j).offset 8 w) ∧
        ∀ k < 8, w.extractLsb' (8 * k) 8 = bytes.getD (8 * j.val + k) 0

/-- The round constants by index (R121). The table is what the generator gives, and the spec marks it as evaluated. -/
def Obligations.RoundConstantTable : Prop :=
  ([
    (0, 0x0000000000000001), (12, 0x000000008000808B),
    (1, 0x0000000000008082), (13, 0x800000000000008B),
    (2, 0x800000000000808A), (14, 0x8000000000008089),
    (3, 0x8000000080008000), (15, 0x8000000000008003),
    (4, 0x000000000000808B), (16, 0x8000000000008002),
    (5, 0x0000000080000001), (17, 0x8000000000000080),
    (6, 0x8000000080008081), (18, 0x000000000000800A),
    (7, 0x8000000000008009), (19, 0x800000008000000A),
    (8, 0x000000000000008A), (20, 0x8000000080008081),
    (9, 0x0000000000000088), (21, 0x8000000000008080),
    (10, 0x0000000080008009), (22, 0x0000000080000001),
    (11, 0x000000008000000A), (23, 0x8000000080008008)] : List (Fin 24 × Word)).all
    (fun p => roundConstants[p.1] == p.2) = true

/-! ## Lanes and words with no value -/

/-- R22 and R23: a command that reads a lane with no value, or a block word with no value, makes every lane it writes
unknown: each of the 25 is a fresh draw and none has a value. It completes all the same, and changes else only what it
changes always. That the unknown is a draw and not a fault, and the marks, are the model's (log 4). -/
def Obligations.UnsetOperandsMakeEveryLaneUnknown : Prop :=
  ∀ (s : State) (i : Instr) (v : BitVec 3), s.completing i v →
    let after : State := { s with
      lanes := Vector.ofFn fun k => Config.freeWord (s.draws + k.val), laneSet := Vector.replicate 25 false, draws := s.draws + 25,
      inflight := none, done := true, turns := s.turns.tail }
    ((i ∈ [.squeeze, .permute, .theta, .rho, .pi, .chi] ∨ ∃ ir < 24, i = .round ir ∨ i = .iota ir) →
      (∃ k : Fin 25, s.laneSet[k] = false) → exec i s = .next after) ∧
    (∀ a rl, i = .absorb → s.activeVariant = some a →
      (a, rl) ∈ [(.sha3x224, 18), (.sha3x256, 17), (.sha3x384, 13), (.sha3x512, 9)] →
      ((∃ k : Fin 25, s.laneSet[k] = false) ∨ ∃ j : Fin 18, j.val < rl ∧ s.blockSet[j] = false) →
      exec i s = .next after) ∧
    (∀ a rate n, i = .absorbLast n → s.activeVariant = some a →
      (a, rate) ∈ [(.sha3x224, 144), (.sha3x256, 136), (.sha3x384, 104), (.sha3x512, 72)] → n < rate →
      ((∃ k : Fin 25, s.laneSet[k] = false) ∨ ∃ j : Fin 18, 8 * j.val < n ∧ s.blockSet[j] = false) →
      exec i s = .next { after with phase := .squeeze })

/-- R22 and R23: a lane stays unspecified until INIT completes or the host writes it, a block word until the host writes
it. A lane that has a value loses it only by reset or by a completion that has read something with none; a block word only
by reset. The marks are the model's own (log 4). -/
def Obligations.UnspecifiedUntilSet : Prop :=
  ∀ s t : State, step s = .next t →
    (∀ i : Fin 25, s.laneSet[i] = false → t.laneSet[i] = true →
      (∃ v, s.completing .init v) ∨ ∃ v : Word, s.hostWrites (.state i) v ∧ s.busy = false) ∧
    (∀ j : Fin 18, s.blockSet[j] = false → t.blockSet[j] = true →
      ∃ v : Word, s.hostWrites (.block j) v ∧ s.busy = false) ∧
    (∀ i : Fin 25, s.laneSet[i] = true → t.laneSet[i] = false →
      s.resetComes ∨ (∃ c v, s.completing c v) ∧ s.SomethingUnset) ∧
    (∀ j : Fin 18, s.blockSet[j] = true → t.blockSet[j] = false → s.resetComes)
end

