-- ==== Sys2Proof/Laws/Decode.lean ====
section
/-! SUPPORT. The fields of a command word as numbers, and what the decoder and the encoder do. -/

namespace Sys2Proof

theorem opcodeField_eq (w : Word) : opcodeField w = w.toNat % 256 := by
  simp [opcodeField, BitVec.extractLsb'_toNat]

theorem lenField_eq (w : Word) : lenField w = w.toNat / 256 % 256 := by
  simp [lenField, BitVec.extractLsb'_toNat, Nat.shiftRight_eq_div_pow]

theorem irField_eq (w : Word) : irField w = w.toNat / 65536 % 32 := by
  simp [irField, BitVec.extractLsb'_toNat, Nat.shiftRight_eq_div_pow]

theorem reservedBits_eq (w : Word) : reservedBits w = w.toNat / 2 ^ 21 := by
  have h := w.isLt
  simp only [reservedBits, BitVec.extractLsb'_toNat, Nat.shiftRight_eq_div_pow]
  omega

/-- What the opcode map answers, one case a command (R82). -/
theorem opcodeMap_cases {op len ir : Nat} {i : Instr} (h : opcodeMap op len ir = some i) :
    (op = 0x00 ∧ i = .nop) ∨ (op = 0x01 ∧ i = .init) ∨ (op = 0x02 ∧ i = .absorb) ∨
    (op = 0x03 ∧ i = .absorbLast len) ∨ (op = 0x04 ∧ i = .squeeze) ∨ (op = 0x08 ∧ i = .permute) ∨
    (op = 0x09 ∧ i = .round ir) ∨ (op = 0x10 ∧ i = .theta) ∨ (op = 0x11 ∧ i = .rho) ∨
    (op = 0x12 ∧ i = .pi) ∨ (op = 0x13 ∧ i = .chi) ∨ (op = 0x14 ∧ i = .iota ir) := by
  unfold opcodeMap at h
  split at h <;> simp_all

theorem encode_absorbLast_toNat : ∀ n < 256, (encode (.absorbLast n)).toNat = 3 + 256 * n := by decide +kernel
theorem encode_round_toNat : ∀ n < 32, (encode (.round n)).toNat = 9 + 65536 * n := by decide +kernel
theorem encode_iota_toNat : ∀ n < 32, (encode (.iota n)).toNat = 0x14 + 65536 * n := by decide +kernel

/-- A word that names a command is that command's word, and its operands fit their fields (R82, R91). -/
theorem encode_of_decode {w : Word} {i : Instr} (h : decode w = .ok i) : encode i = w ∧ i.wf = true := by
  unfold decode at h
  split at h
  · cases h
  next j hj =>
    split at h
    next hu =>
      cases h
      simp only [unusedFieldsClear, Bool.and_eq_true, Bool.or_eq_true, beq_iff_eq, reservedBits_eq, lenField_eq,
        irField_eq] at hu
      have hw := w.isLt
      rw [opcodeField_eq, lenField_eq, irField_eq] at hj
      obtain ⟨⟨hr, hl⟩, hi⟩ := hu
      rcases opcodeMap_cases hj with ⟨ho, rfl⟩ | ⟨ho, rfl⟩ | ⟨ho, rfl⟩ | ⟨ho, rfl⟩ | ⟨ho, rfl⟩ | ⟨ho, rfl⟩ |
        ⟨ho, rfl⟩ | ⟨ho, rfl⟩ | ⟨ho, rfl⟩ | ⟨ho, rfl⟩ | ⟨ho, rfl⟩ | ⟨ho, rfl⟩ <;>
        simp only [Instr.usesLen, Instr.usesIr, Bool.false_eq_true, false_or, true_or] at hl hi <;>
        refine ⟨BitVec.eq_of_toNat_eq ?_, ?_⟩ <;>
        first
          | rfl
          | (simp only [Instr.wf, decide_eq_true_eq]; omega)
          | (simp only [encode, BitVec.ofNat_eq_ofNat, BitVec.toNat_ofNat]; omega)
          | (rw [encode_absorbLast_toNat _ (by omega)]; omega)
          | (rw [encode_round_toNat _ (by omega)]; omega)
          | (rw [encode_iota_toNat _ (by omega)]; omega)
    · cases h

end Sys2Proof
end

