-- ==== Sys2Proof/Laws/State.lean ====
section
/-! SUPPORT. The small lemmas of State: what each field is after each named update, and what the updates do to BUSY. -/

namespace Sys2Proof.Machine

@[simp] theorem endIdleTurn_lanes (s : State) : s.endIdleTurn.lanes = s.lanes := rfl
@[simp] theorem endIdleTurn_block (s : State) : s.endIdleTurn.block = s.block := rfl
@[simp] theorem endIdleTurn_laneSet (s : State) : s.endIdleTurn.laneSet = s.laneSet := rfl
@[simp] theorem endIdleTurn_blockSet (s : State) : s.endIdleTurn.blockSet = s.blockSet := rfl
@[simp] theorem endIdleTurn_cmd (s : State) : s.endIdleTurn.cmd = s.cmd := rfl
@[simp] theorem endIdleTurn_done (s : State) : s.endIdleTurn.done = s.done := rfl
@[simp] theorem endIdleTurn_err (s : State) : s.endIdleTurn.err = s.err := rfl
@[simp] theorem endIdleTurn_phase (s : State) : s.endIdleTurn.phase = s.phase := rfl
@[simp] theorem endIdleTurn_activeVariant (s : State) : s.endIdleTurn.activeVariant = s.activeVariant := rfl
@[simp] theorem endIdleTurn_cfgVariant (s : State) : s.endIdleTurn.cfgVariant = s.cfgVariant := rfl
@[simp] theorem endIdleTurn_irqEnDone (s : State) : s.endIdleTurn.irqEnDone = s.irqEnDone := rfl
@[simp] theorem endIdleTurn_irqEnErr (s : State) : s.endIdleTurn.irqEnErr = s.irqEnErr := rfl
@[simp] theorem endIdleTurn_inflight (s : State) : s.endIdleTurn.inflight = s.inflight := rfl
@[simp] theorem endIdleTurn_program (s : State) : s.endIdleTurn.program = s.program := rfl
@[simp] theorem endIdleTurn_turns (s : State) : s.endIdleTurn.turns = s.turns.tail := rfl
@[simp] theorem endIdleTurn_response (s : State) : s.endIdleTurn.response = s.response := rfl
@[simp] theorem endIdleTurn_draws (s : State) : s.endIdleTurn.draws = s.draws := rfl

@[simp] theorem endHostTurn_lanes (r : Response) (s : State) : (s.endHostTurn r).lanes = s.lanes := rfl
@[simp] theorem endHostTurn_block (r : Response) (s : State) : (s.endHostTurn r).block = s.block := rfl
@[simp] theorem endHostTurn_laneSet (r : Response) (s : State) : (s.endHostTurn r).laneSet = s.laneSet := rfl
@[simp] theorem endHostTurn_blockSet (r : Response) (s : State) : (s.endHostTurn r).blockSet = s.blockSet := rfl
@[simp] theorem endHostTurn_cmd (r : Response) (s : State) : (s.endHostTurn r).cmd = s.cmd := rfl
@[simp] theorem endHostTurn_done (r : Response) (s : State) : (s.endHostTurn r).done = s.done := rfl
@[simp] theorem endHostTurn_err (r : Response) (s : State) : (s.endHostTurn r).err = s.err := rfl
@[simp] theorem endHostTurn_phase (r : Response) (s : State) : (s.endHostTurn r).phase = s.phase := rfl
@[simp] theorem endHostTurn_activeVariant (r : Response) (s : State) : (s.endHostTurn r).activeVariant = s.activeVariant := rfl
@[simp] theorem endHostTurn_cfgVariant (r : Response) (s : State) : (s.endHostTurn r).cfgVariant = s.cfgVariant := rfl
@[simp] theorem endHostTurn_irqEnDone (r : Response) (s : State) : (s.endHostTurn r).irqEnDone = s.irqEnDone := rfl
@[simp] theorem endHostTurn_irqEnErr (r : Response) (s : State) : (s.endHostTurn r).irqEnErr = s.irqEnErr := rfl
@[simp] theorem endHostTurn_inflight (r : Response) (s : State) : (s.endHostTurn r).inflight = s.inflight := rfl
@[simp] theorem endHostTurn_program (r : Response) (s : State) : (s.endHostTurn r).program = s.program.tail := rfl
@[simp] theorem endHostTurn_turns (r : Response) (s : State) : (s.endHostTurn r).turns = s.turns.tail := rfl
@[simp] theorem endHostTurn_response (r : Response) (s : State) : (s.endHostTurn r).response = some r := rfl
@[simp] theorem endHostTurn_draws (r : Response) (s : State) : (s.endHostTurn r).draws = s.draws := rfl

@[simp] theorem clearError_lanes (s : State) : (clearError s).lanes = s.lanes := rfl
@[simp] theorem clearError_block (s : State) : (clearError s).block = s.block := rfl
@[simp] theorem clearError_laneSet (s : State) : (clearError s).laneSet = s.laneSet := rfl
@[simp] theorem clearError_blockSet (s : State) : (clearError s).blockSet = s.blockSet := rfl
@[simp] theorem clearError_cmd (s : State) : (clearError s).cmd = s.cmd := rfl
@[simp] theorem clearError_done (s : State) : (clearError s).done = s.done := rfl
@[simp] theorem clearError_err (s : State) : (clearError s).err = none := rfl
@[simp] theorem clearError_phase (s : State) : (clearError s).phase = s.phase := rfl
@[simp] theorem clearError_activeVariant (s : State) : (clearError s).activeVariant = s.activeVariant := rfl
@[simp] theorem clearError_cfgVariant (s : State) : (clearError s).cfgVariant = s.cfgVariant := rfl
@[simp] theorem clearError_irqEnDone (s : State) : (clearError s).irqEnDone = s.irqEnDone := rfl
@[simp] theorem clearError_irqEnErr (s : State) : (clearError s).irqEnErr = s.irqEnErr := rfl
@[simp] theorem clearError_inflight (s : State) : (clearError s).inflight = s.inflight := rfl
@[simp] theorem clearError_program (s : State) : (clearError s).program = s.program := rfl
@[simp] theorem clearError_turns (s : State) : (clearError s).turns = s.turns := rfl
@[simp] theorem clearError_response (s : State) : (clearError s).response = s.response := rfl
@[simp] theorem clearError_draws (s : State) : (clearError s).draws = s.draws := rfl

@[simp] theorem startCommand_lanes (i : Instr) (s : State) : (startCommand i s).lanes = s.lanes := rfl
@[simp] theorem startCommand_block (i : Instr) (s : State) : (startCommand i s).block = s.block := rfl
@[simp] theorem startCommand_laneSet (i : Instr) (s : State) : (startCommand i s).laneSet = s.laneSet := rfl
@[simp] theorem startCommand_blockSet (i : Instr) (s : State) : (startCommand i s).blockSet = s.blockSet := rfl
@[simp] theorem startCommand_cmd (i : Instr) (s : State) : (startCommand i s).cmd = encode i := rfl
@[simp] theorem startCommand_done (i : Instr) (s : State) : (startCommand i s).done = false := rfl
@[simp] theorem startCommand_err (i : Instr) (s : State) : (startCommand i s).err = s.err := rfl
@[simp] theorem startCommand_phase (i : Instr) (s : State) : (startCommand i s).phase = s.phase := rfl
@[simp] theorem startCommand_activeVariant (i : Instr) (s : State) : (startCommand i s).activeVariant = s.activeVariant := rfl
@[simp] theorem startCommand_cfgVariant (i : Instr) (s : State) : (startCommand i s).cfgVariant = s.cfgVariant := rfl
@[simp] theorem startCommand_irqEnDone (i : Instr) (s : State) : (startCommand i s).irqEnDone = s.irqEnDone := rfl
@[simp] theorem startCommand_irqEnErr (i : Instr) (s : State) : (startCommand i s).irqEnErr = s.irqEnErr := rfl
@[simp] theorem startCommand_inflight (i : Instr) (s : State) : (startCommand i s).inflight = some ⟨i, s.cfgVariant⟩ := rfl
@[simp] theorem startCommand_program (i : Instr) (s : State) : (startCommand i s).program = s.program := rfl
@[simp] theorem startCommand_turns (i : Instr) (s : State) : (startCommand i s).turns = s.turns := rfl
@[simp] theorem startCommand_response (i : Instr) (s : State) : (startCommand i s).response = s.response := rfl
@[simp] theorem startCommand_draws (i : Instr) (s : State) : (startCommand i s).draws = s.draws := rfl

@[simp] theorem finishCommand_lanes (s : State) : (finishCommand s).lanes = s.lanes := rfl
@[simp] theorem finishCommand_block (s : State) : (finishCommand s).block = s.block := rfl
@[simp] theorem finishCommand_laneSet (s : State) : (finishCommand s).laneSet = s.laneSet := rfl
@[simp] theorem finishCommand_blockSet (s : State) : (finishCommand s).blockSet = s.blockSet := rfl
@[simp] theorem finishCommand_cmd (s : State) : (finishCommand s).cmd = s.cmd := rfl
@[simp] theorem finishCommand_done (s : State) : (finishCommand s).done = true := rfl
@[simp] theorem finishCommand_err (s : State) : (finishCommand s).err = s.err := rfl
@[simp] theorem finishCommand_phase (s : State) : (finishCommand s).phase = s.phase := rfl
@[simp] theorem finishCommand_activeVariant (s : State) : (finishCommand s).activeVariant = s.activeVariant := rfl
@[simp] theorem finishCommand_cfgVariant (s : State) : (finishCommand s).cfgVariant = s.cfgVariant := rfl
@[simp] theorem finishCommand_irqEnDone (s : State) : (finishCommand s).irqEnDone = s.irqEnDone := rfl
@[simp] theorem finishCommand_irqEnErr (s : State) : (finishCommand s).irqEnErr = s.irqEnErr := rfl
@[simp] theorem finishCommand_inflight (s : State) : (finishCommand s).inflight = none := rfl
@[simp] theorem finishCommand_program (s : State) : (finishCommand s).program = s.program := rfl
@[simp] theorem finishCommand_turns (s : State) : (finishCommand s).turns = s.turns.tail := rfl
@[simp] theorem finishCommand_response (s : State) : (finishCommand s).response = s.response := rfl
@[simp] theorem finishCommand_draws (s : State) : (finishCommand s).draws = s.draws := rfl

@[simp] theorem setLane_lanes (i : Fin 25) (v : Word) (s : State) : (s.setLane i v).lanes = s.lanes.set i.val v := rfl
@[simp] theorem setLane_block (i : Fin 25) (v : Word) (s : State) : (s.setLane i v).block = s.block := rfl
@[simp] theorem setLane_laneSet (i : Fin 25) (v : Word) (s : State) : (s.setLane i v).laneSet = s.laneSet.set i.val true := rfl
@[simp] theorem setLane_blockSet (i : Fin 25) (v : Word) (s : State) : (s.setLane i v).blockSet = s.blockSet := rfl
@[simp] theorem setLane_cmd (i : Fin 25) (v : Word) (s : State) : (s.setLane i v).cmd = s.cmd := rfl
@[simp] theorem setLane_done (i : Fin 25) (v : Word) (s : State) : (s.setLane i v).done = s.done := rfl
@[simp] theorem setLane_err (i : Fin 25) (v : Word) (s : State) : (s.setLane i v).err = s.err := rfl
@[simp] theorem setLane_phase (i : Fin 25) (v : Word) (s : State) : (s.setLane i v).phase = s.phase := rfl
@[simp] theorem setLane_activeVariant (i : Fin 25) (v : Word) (s : State) : (s.setLane i v).activeVariant = s.activeVariant := rfl
@[simp] theorem setLane_cfgVariant (i : Fin 25) (v : Word) (s : State) : (s.setLane i v).cfgVariant = s.cfgVariant := rfl
@[simp] theorem setLane_irqEnDone (i : Fin 25) (v : Word) (s : State) : (s.setLane i v).irqEnDone = s.irqEnDone := rfl
@[simp] theorem setLane_irqEnErr (i : Fin 25) (v : Word) (s : State) : (s.setLane i v).irqEnErr = s.irqEnErr := rfl
@[simp] theorem setLane_inflight (i : Fin 25) (v : Word) (s : State) : (s.setLane i v).inflight = s.inflight := rfl
@[simp] theorem setLane_program (i : Fin 25) (v : Word) (s : State) : (s.setLane i v).program = s.program := rfl
@[simp] theorem setLane_turns (i : Fin 25) (v : Word) (s : State) : (s.setLane i v).turns = s.turns := rfl
@[simp] theorem setLane_response (i : Fin 25) (v : Word) (s : State) : (s.setLane i v).response = s.response := rfl
@[simp] theorem setLane_draws (i : Fin 25) (v : Word) (s : State) : (s.setLane i v).draws = s.draws := rfl

@[simp] theorem setBlock_lanes (j : Fin 18) (v : Word) (s : State) : (s.setBlock j v).lanes = s.lanes := rfl
@[simp] theorem setBlock_block (j : Fin 18) (v : Word) (s : State) : (s.setBlock j v).block = s.block.set j.val v := rfl
@[simp] theorem setBlock_laneSet (j : Fin 18) (v : Word) (s : State) : (s.setBlock j v).laneSet = s.laneSet := rfl
@[simp] theorem setBlock_blockSet (j : Fin 18) (v : Word) (s : State) : (s.setBlock j v).blockSet = s.blockSet.set j.val true := rfl
@[simp] theorem setBlock_cmd (j : Fin 18) (v : Word) (s : State) : (s.setBlock j v).cmd = s.cmd := rfl
@[simp] theorem setBlock_done (j : Fin 18) (v : Word) (s : State) : (s.setBlock j v).done = s.done := rfl
@[simp] theorem setBlock_err (j : Fin 18) (v : Word) (s : State) : (s.setBlock j v).err = s.err := rfl
@[simp] theorem setBlock_phase (j : Fin 18) (v : Word) (s : State) : (s.setBlock j v).phase = s.phase := rfl
@[simp] theorem setBlock_activeVariant (j : Fin 18) (v : Word) (s : State) : (s.setBlock j v).activeVariant = s.activeVariant := rfl
@[simp] theorem setBlock_cfgVariant (j : Fin 18) (v : Word) (s : State) : (s.setBlock j v).cfgVariant = s.cfgVariant := rfl
@[simp] theorem setBlock_irqEnDone (j : Fin 18) (v : Word) (s : State) : (s.setBlock j v).irqEnDone = s.irqEnDone := rfl
@[simp] theorem setBlock_irqEnErr (j : Fin 18) (v : Word) (s : State) : (s.setBlock j v).irqEnErr = s.irqEnErr := rfl
@[simp] theorem setBlock_inflight (j : Fin 18) (v : Word) (s : State) : (s.setBlock j v).inflight = s.inflight := rfl
@[simp] theorem setBlock_program (j : Fin 18) (v : Word) (s : State) : (s.setBlock j v).program = s.program := rfl
@[simp] theorem setBlock_turns (j : Fin 18) (v : Word) (s : State) : (s.setBlock j v).turns = s.turns := rfl
@[simp] theorem setBlock_response (j : Fin 18) (v : Word) (s : State) : (s.setBlock j v).response = s.response := rfl
@[simp] theorem setBlock_draws (j : Fin 18) (v : Word) (s : State) : (s.setBlock j v).draws = s.draws := rfl

@[simp] theorem writeConfig_lanes (v : Word) (s : State) : (writeConfig v s).lanes = s.lanes := rfl
@[simp] theorem writeConfig_block (v : Word) (s : State) : (writeConfig v s).block = s.block := rfl
@[simp] theorem writeConfig_laneSet (v : Word) (s : State) : (writeConfig v s).laneSet = s.laneSet := rfl
@[simp] theorem writeConfig_blockSet (v : Word) (s : State) : (writeConfig v s).blockSet = s.blockSet := rfl
@[simp] theorem writeConfig_cmd (v : Word) (s : State) : (writeConfig v s).cmd = s.cmd := rfl
@[simp] theorem writeConfig_done (v : Word) (s : State) : (writeConfig v s).done = s.done := rfl
@[simp] theorem writeConfig_err (v : Word) (s : State) : (writeConfig v s).err = s.err := rfl
@[simp] theorem writeConfig_phase (v : Word) (s : State) : (writeConfig v s).phase = s.phase := rfl
@[simp] theorem writeConfig_activeVariant (v : Word) (s : State) : (writeConfig v s).activeVariant = s.activeVariant := rfl
@[simp] theorem writeConfig_cfgVariant (v : Word) (s : State) : (writeConfig v s).cfgVariant = v.extractLsb' 0 3 := rfl
@[simp] theorem writeConfig_irqEnDone (v : Word) (s : State) : (writeConfig v s).irqEnDone = v.getLsbD 8 := rfl
@[simp] theorem writeConfig_irqEnErr (v : Word) (s : State) : (writeConfig v s).irqEnErr = v.getLsbD 9 := rfl
@[simp] theorem writeConfig_inflight (v : Word) (s : State) : (writeConfig v s).inflight = s.inflight := rfl
@[simp] theorem writeConfig_program (v : Word) (s : State) : (writeConfig v s).program = s.program := rfl
@[simp] theorem writeConfig_turns (v : Word) (s : State) : (writeConfig v s).turns = s.turns := rfl
@[simp] theorem writeConfig_response (v : Word) (s : State) : (writeConfig v s).response = s.response := rfl
@[simp] theorem writeConfig_draws (v : Word) (s : State) : (writeConfig v s).draws = s.draws := rfl

@[simp] theorem raiseError_lanes (e : CmdError) (s : State) : (raiseError e s).lanes = s.lanes := by
  unfold raiseError; cases s.err <;> rfl
@[simp] theorem raiseError_block (e : CmdError) (s : State) : (raiseError e s).block = s.block := by
  unfold raiseError; cases s.err <;> rfl
@[simp] theorem raiseError_laneSet (e : CmdError) (s : State) : (raiseError e s).laneSet = s.laneSet := by
  unfold raiseError; cases s.err <;> rfl
@[simp] theorem raiseError_blockSet (e : CmdError) (s : State) : (raiseError e s).blockSet = s.blockSet := by
  unfold raiseError; cases s.err <;> rfl
@[simp] theorem raiseError_cmd (e : CmdError) (s : State) : (raiseError e s).cmd = s.cmd := by
  unfold raiseError; cases s.err <;> rfl
@[simp] theorem raiseError_done (e : CmdError) (s : State) : (raiseError e s).done = s.done := by
  unfold raiseError; cases s.err <;> rfl
@[simp] theorem raiseError_phase (e : CmdError) (s : State) : (raiseError e s).phase = s.phase := by
  unfold raiseError; cases s.err <;> rfl
@[simp] theorem raiseError_activeVariant (e : CmdError) (s : State) : (raiseError e s).activeVariant = s.activeVariant := by
  unfold raiseError; cases s.err <;> rfl
@[simp] theorem raiseError_cfgVariant (e : CmdError) (s : State) : (raiseError e s).cfgVariant = s.cfgVariant := by
  unfold raiseError; cases s.err <;> rfl
@[simp] theorem raiseError_irqEnDone (e : CmdError) (s : State) : (raiseError e s).irqEnDone = s.irqEnDone := by
  unfold raiseError; cases s.err <;> rfl
@[simp] theorem raiseError_irqEnErr (e : CmdError) (s : State) : (raiseError e s).irqEnErr = s.irqEnErr := by
  unfold raiseError; cases s.err <;> rfl
@[simp] theorem raiseError_inflight (e : CmdError) (s : State) : (raiseError e s).inflight = s.inflight := by
  unfold raiseError; cases s.err <;> rfl
@[simp] theorem raiseError_program (e : CmdError) (s : State) : (raiseError e s).program = s.program := by
  unfold raiseError; cases s.err <;> rfl
@[simp] theorem raiseError_turns (e : CmdError) (s : State) : (raiseError e s).turns = s.turns := by
  unfold raiseError; cases s.err <;> rfl
@[simp] theorem raiseError_response (e : CmdError) (s : State) : (raiseError e s).response = s.response := by
  unfold raiseError; cases s.err <;> rfl
@[simp] theorem raiseError_draws (e : CmdError) (s : State) : (raiseError e s).draws = s.draws := by
  unfold raiseError; cases s.err <;> rfl

/-- The first error since ERR was last clear is kept (R182, R191). -/
@[simp] theorem raiseError_err (e : CmdError) (s : State) : (raiseError e s).err = some (s.err.getD e) := by
  unfold raiseError; cases h : s.err <;> simp [h]

theorem raiseError_eq (e : CmdError) (s : State) : raiseError e s = { s with err := some (s.err.getD e) } := by
  cases s with | mk l b ls bs c d err => cases err <;> rfl

@[simp] theorem writeStatus_lanes (v : Word) (s : State) : (writeStatus v s).lanes = s.lanes := by
  unfold writeStatus; cases v.getLsbD 1 <;> cases v.getLsbD 2 <;> rfl
@[simp] theorem writeStatus_block (v : Word) (s : State) : (writeStatus v s).block = s.block := by
  unfold writeStatus; cases v.getLsbD 1 <;> cases v.getLsbD 2 <;> rfl
@[simp] theorem writeStatus_laneSet (v : Word) (s : State) : (writeStatus v s).laneSet = s.laneSet := by
  unfold writeStatus; cases v.getLsbD 1 <;> cases v.getLsbD 2 <;> rfl
@[simp] theorem writeStatus_blockSet (v : Word) (s : State) : (writeStatus v s).blockSet = s.blockSet := by
  unfold writeStatus; cases v.getLsbD 1 <;> cases v.getLsbD 2 <;> rfl
@[simp] theorem writeStatus_cmd (v : Word) (s : State) : (writeStatus v s).cmd = s.cmd := by
  unfold writeStatus; cases v.getLsbD 1 <;> cases v.getLsbD 2 <;> rfl
@[simp] theorem writeStatus_phase (v : Word) (s : State) : (writeStatus v s).phase = s.phase := by
  unfold writeStatus; cases v.getLsbD 1 <;> cases v.getLsbD 2 <;> rfl
@[simp] theorem writeStatus_activeVariant (v : Word) (s : State) : (writeStatus v s).activeVariant = s.activeVariant := by
  unfold writeStatus; cases v.getLsbD 1 <;> cases v.getLsbD 2 <;> rfl
@[simp] theorem writeStatus_cfgVariant (v : Word) (s : State) : (writeStatus v s).cfgVariant = s.cfgVariant := by
  unfold writeStatus; cases v.getLsbD 1 <;> cases v.getLsbD 2 <;> rfl
@[simp] theorem writeStatus_irqEnDone (v : Word) (s : State) : (writeStatus v s).irqEnDone = s.irqEnDone := by
  unfold writeStatus; cases v.getLsbD 1 <;> cases v.getLsbD 2 <;> rfl
@[simp] theorem writeStatus_irqEnErr (v : Word) (s : State) : (writeStatus v s).irqEnErr = s.irqEnErr := by
  unfold writeStatus; cases v.getLsbD 1 <;> cases v.getLsbD 2 <;> rfl
@[simp] theorem writeStatus_inflight (v : Word) (s : State) : (writeStatus v s).inflight = s.inflight := by
  unfold writeStatus; cases v.getLsbD 1 <;> cases v.getLsbD 2 <;> rfl
@[simp] theorem writeStatus_program (v : Word) (s : State) : (writeStatus v s).program = s.program := by
  unfold writeStatus; cases v.getLsbD 1 <;> cases v.getLsbD 2 <;> rfl
@[simp] theorem writeStatus_turns (v : Word) (s : State) : (writeStatus v s).turns = s.turns := by
  unfold writeStatus; cases v.getLsbD 1 <;> cases v.getLsbD 2 <;> rfl
@[simp] theorem writeStatus_response (v : Word) (s : State) : (writeStatus v s).response = s.response := by
  unfold writeStatus; cases v.getLsbD 1 <;> cases v.getLsbD 2 <;> rfl
@[simp] theorem writeStatus_draws (v : Word) (s : State) : (writeStatus v s).draws = s.draws := by
  unfold writeStatus; cases v.getLsbD 1 <;> cases v.getLsbD 2 <;> rfl
@[simp] theorem writeStatus_done (v : Word) (s : State) : (writeStatus v s).done = (s.done && !v.getLsbD 1) := by
  unfold writeStatus; cases v.getLsbD 1 <;> cases v.getLsbD 2 <;> simp
@[simp] theorem writeStatus_err (v : Word) (s : State) :
    (writeStatus v s).err = if v.getLsbD 2 then none else s.err := by
  unfold writeStatus; cases v.getLsbD 1 <;> cases v.getLsbD 2 <;> rfl

@[simp] theorem replaceLanes_block (k : Bool) (A : Lanes) (s : State) : (s.replaceLanes k A).block = s.block := by
  cases k <;> rfl
@[simp] theorem replaceLanes_blockSet (k : Bool) (A : Lanes) (s : State) : (s.replaceLanes k A).blockSet = s.blockSet := by
  cases k <;> rfl
@[simp] theorem replaceLanes_cmd (k : Bool) (A : Lanes) (s : State) : (s.replaceLanes k A).cmd = s.cmd := by
  cases k <;> rfl
@[simp] theorem replaceLanes_done (k : Bool) (A : Lanes) (s : State) : (s.replaceLanes k A).done = s.done := by
  cases k <;> rfl
@[simp] theorem replaceLanes_err (k : Bool) (A : Lanes) (s : State) : (s.replaceLanes k A).err = s.err := by
  cases k <;> rfl
@[simp] theorem replaceLanes_phase (k : Bool) (A : Lanes) (s : State) : (s.replaceLanes k A).phase = s.phase := by
  cases k <;> rfl
@[simp] theorem replaceLanes_activeVariant (k : Bool) (A : Lanes) (s : State) : (s.replaceLanes k A).activeVariant = s.activeVariant := by
  cases k <;> rfl
@[simp] theorem replaceLanes_cfgVariant (k : Bool) (A : Lanes) (s : State) : (s.replaceLanes k A).cfgVariant = s.cfgVariant := by
  cases k <;> rfl
@[simp] theorem replaceLanes_irqEnDone (k : Bool) (A : Lanes) (s : State) : (s.replaceLanes k A).irqEnDone = s.irqEnDone := by
  cases k <;> rfl
@[simp] theorem replaceLanes_irqEnErr (k : Bool) (A : Lanes) (s : State) : (s.replaceLanes k A).irqEnErr = s.irqEnErr := by
  cases k <;> rfl
@[simp] theorem replaceLanes_inflight (k : Bool) (A : Lanes) (s : State) : (s.replaceLanes k A).inflight = s.inflight := by
  cases k <;> rfl
@[simp] theorem replaceLanes_program (k : Bool) (A : Lanes) (s : State) : (s.replaceLanes k A).program = s.program := by
  cases k <;> rfl
@[simp] theorem replaceLanes_turns (k : Bool) (A : Lanes) (s : State) : (s.replaceLanes k A).turns = s.turns := by
  cases k <;> rfl
@[simp] theorem replaceLanes_response (k : Bool) (A : Lanes) (s : State) : (s.replaceLanes k A).response = s.response := by
  cases k <;> rfl
@[simp] theorem replaceLanes_busy (k : Bool) (A : Lanes) (s : State) : (s.replaceLanes k A).busy = s.busy := by
  cases k <;> rfl
@[simp] theorem replaceLanes_true (A : Lanes) (s : State) : s.replaceLanes true A = { s with lanes := A } := rfl
@[simp] theorem replaceLanes_false (A : Lanes) (s : State) : s.replaceLanes false A =
    { s with lanes := drawLanes s.draws, laneSet := Vector.replicate 25 false, draws := s.draws + 25 } := rfl

@[simp] theorem resetFrom_laneSet (n : Nat) : (State.resetFrom n).laneSet = Vector.replicate 25 false := rfl
@[simp] theorem resetFrom_blockSet (n : Nat) : (State.resetFrom n).blockSet = Vector.replicate 18 false := rfl
@[simp] theorem resetFrom_cmd (n : Nat) : (State.resetFrom n).cmd = 0 := rfl
@[simp] theorem resetFrom_done (n : Nat) : (State.resetFrom n).done = false := rfl
@[simp] theorem resetFrom_err (n : Nat) : (State.resetFrom n).err = none := rfl
@[simp] theorem resetFrom_phase (n : Nat) : (State.resetFrom n).phase = .idle := rfl
@[simp] theorem resetFrom_activeVariant (n : Nat) : (State.resetFrom n).activeVariant = none := rfl
@[simp] theorem resetFrom_cfgVariant (n : Nat) : (State.resetFrom n).cfgVariant = 0 := rfl
@[simp] theorem resetFrom_irqEnDone (n : Nat) : (State.resetFrom n).irqEnDone = false := rfl
@[simp] theorem resetFrom_irqEnErr (n : Nat) : (State.resetFrom n).irqEnErr = false := rfl
@[simp] theorem resetFrom_inflight (n : Nat) : (State.resetFrom n).inflight = none := rfl

@[simp] theorem afterReset_laneSet (s : State) : s.afterReset.laneSet = Vector.replicate 25 false := rfl
@[simp] theorem afterReset_blockSet (s : State) : s.afterReset.blockSet = Vector.replicate 18 false := rfl
@[simp] theorem afterReset_cmd (s : State) : s.afterReset.cmd = 0 := rfl
@[simp] theorem afterReset_done (s : State) : s.afterReset.done = false := rfl
@[simp] theorem afterReset_err (s : State) : s.afterReset.err = none := rfl
@[simp] theorem afterReset_phase (s : State) : s.afterReset.phase = .idle := rfl
@[simp] theorem afterReset_activeVariant (s : State) : s.afterReset.activeVariant = none := rfl
@[simp] theorem afterReset_cfgVariant (s : State) : s.afterReset.cfgVariant = 0 := rfl
@[simp] theorem afterReset_irqEnDone (s : State) : s.afterReset.irqEnDone = false := rfl
@[simp] theorem afterReset_irqEnErr (s : State) : s.afterReset.irqEnErr = false := rfl
@[simp] theorem afterReset_inflight (s : State) : s.afterReset.inflight = none := rfl
@[simp] theorem afterReset_program (s : State) : s.afterReset.program = s.program.tail := rfl
@[simp] theorem afterReset_turns (s : State) : s.afterReset.turns = s.turns.tail := rfl
@[simp] theorem afterReset_draws (s : State) : s.afterReset.draws = s.draws + 43 := rfl

@[simp] theorem endIdleTurn_busy (s : State) : s.endIdleTurn.busy = s.busy := rfl
@[simp] theorem endHostTurn_busy (r : Response) (s : State) : (s.endHostTurn r).busy = s.busy := rfl
@[simp] theorem clearError_busy (s : State) : (clearError s).busy = s.busy := rfl
@[simp] theorem startCommand_busy (i : Instr) (s : State) : (startCommand i s).busy = true := rfl
@[simp] theorem finishCommand_busy (s : State) : (finishCommand s).busy = false := rfl
@[simp] theorem setLane_busy (i : Fin 25) (v : Word) (s : State) : (s.setLane i v).busy = s.busy := rfl
@[simp] theorem setBlock_busy (j : Fin 18) (v : Word) (s : State) : (s.setBlock j v).busy = s.busy := rfl
@[simp] theorem writeConfig_busy (v : Word) (s : State) : (writeConfig v s).busy = s.busy := rfl
@[simp] theorem raiseError_busy (e : CmdError) (s : State) : (raiseError e s).busy = s.busy := by simp [State.busy]
@[simp] theorem writeStatus_busy (v : Word) (s : State) : (writeStatus v s).busy = s.busy := by simp [State.busy]
@[simp] theorem afterReset_busy (s : State) : s.afterReset.busy = false := rfl

/-- BUSY = 0 exactly when no command is in flight (R26, R38). -/
theorem busy_eq_false_iff (s : State) : s.busy = false ↔ s.inflight = none := by
  simp [State.busy]

theorem busy_of_inflight {s : State} {f : Inflight} (h : s.inflight = some f) : s.busy = true := by
  simp [State.busy, h]

end Sys2Proof.Machine
end

