-- ==== Sys2Proof/Laws/Ops.lean ====
section
/-! SUPPORT. What exec, acceptance and completion can do, said once. -/

namespace Sys2Proof.Machine

/-- The checks of R86 that a command runs after BUSY and the checks of its word. -/
def verdict : Instr → State → Except CmdError Instr
  | .nop => fun _ => .ok .nop
  | .init => admitInit
  | .absorb => admitAbsorb
  | .absorbLast len => admitAbsorbLast len
  | .squeeze => admitSqueeze
  | .permute => fun _ => .ok .permute
  | .round ir => fun _ => admitRoundIndex (.round ir) ir
  | .theta => fun _ => .ok .theta
  | .rho => fun _ => .ok .rho
  | .pi => fun _ => .ok .pi
  | .chi => fun _ => .ok .chi
  | .iota ir => fun _ => admitRoundIndex (.iota ir) ir

/-- What a command executes at completion (R88). -/
def execute : Instr → Inflight → State → Answer
  | .nop => completeNop
  | .init => completeInit
  | .absorb => completeAbsorb
  | .absorbLast len => completeAbsorbLast len
  | .squeeze => mapLanes keccakP
  | .permute => mapLanes keccakP
  | .round ir => mapLanesAtRound keccakRound ir
  | .theta => mapLanes theta
  | .rho => mapLanes rho
  | .pi => mapLanes pi
  | .chi => mapLanes chi
  | .iota ir => mapLanesAtRound iota ir

/-- Every command is its two events (R85). -/
theorem exec_eq (i : Instr) (s : State) : exec i s = commandEvent (verdict i) (execute i) s := by
  cases i <;> rfl

/-- A command on the host's move is its acceptance. -/
theorem exec_of_host {s : State} (i : Instr) (h : s.mover = .host) :
    exec i s = .next ((accept (verdict i s) s).endHostTurn .writeOk) := by
  simp [exec_eq, commandEvent, h]

/-- A command on the core's move is its completion. -/
theorem exec_of_core {s : State} (i : Instr) (h : s.mover = .core) : exec i s = complete (execute i) s := by
  simp [exec_eq, commandEvent, h]

/-- A completion whose execution answers `t` ends in `t` with the command finished. -/
theorem exec_completes {s t : State} {f : Inflight} (i : Instr) (hm : s.mover = .core) (hf : s.inflight = some f)
    (he : execute i f s = .next t) : exec i s = .next (finishCommand t) := by
  simp [exec_of_core i hm, complete, hf, he]

/-- The next state of a completion, written out. -/
theorem exec_of_completing {s t : State} {i : Instr} {v : BitVec 3} (h : s.completing i v)
    (he : execute i ⟨i, v⟩ s = .next t) :
    exec i s = .next { t with inflight := none, done := true, turns := t.turns.tail } :=
  exec_completes i h.1 h.2 he

/-- A completion whose execution faults is that fault. -/
theorem exec_faults {s : State} {f : Inflight} {r : Fault} (i : Instr) (hm : s.mover = .core)
    (hf : s.inflight = some f) (he : execute i f s = .fault r) : exec i s = .fault r := by
  simp [exec_of_core i hm, complete, hf, he]

/-- A completion that goes on comes from an execution that goes on. -/
theorem exec_core_next {s t : State} {f : Inflight} {i : Instr} (hm : s.mover = .core) (hf : s.inflight = some f)
    (h : exec i s = .next t) : ∃ u, execute i f s = .next u ∧ t = finishCommand u := by
  rw [exec_of_core i hm] at h
  simp only [complete, hf] at h
  split at h
  next u hu => exact ⟨u, hu, by cases h; rfl⟩
  · cases h
  · cases h

/-! The execution of each command that goes on, said once. -/

theorem execute_nop (f : Inflight) (s : State) : execute .nop f s = .next s := rfl
theorem execute_squeeze (f : Inflight) (s : State) :
    execute .squeeze f s = .next (s.replaceLanes s.lanesSet (keccakP s.lanes)) := rfl
theorem execute_permute (f : Inflight) (s : State) :
    execute .permute f s = .next (s.replaceLanes s.lanesSet (keccakP s.lanes)) := rfl
theorem execute_theta (f : Inflight) (s : State) :
    execute .theta f s = .next (s.replaceLanes s.lanesSet (theta s.lanes)) := rfl
theorem execute_rho (f : Inflight) (s : State) :
    execute .rho f s = .next (s.replaceLanes s.lanesSet (rho s.lanes)) := rfl
theorem execute_pi (f : Inflight) (s : State) :
    execute .pi f s = .next (s.replaceLanes s.lanesSet (pi s.lanes)) := rfl
theorem execute_chi (f : Inflight) (s : State) :
    execute .chi f s = .next (s.replaceLanes s.lanesSet (chi s.lanes)) := rfl

/-- INIT's execution with a captured variant in 1..4 (R156). -/
theorem execute_init {f : Inflight} {v : Variant} (s : State) (h : Variant.ofCode f.variant = some v) :
    execute .init f s = .next { s with
      lanes := zeroLanes, laneSet := Vector.replicate 25 true, activeVariant := some v, phase := .absorb } := by
  simp only [execute, completeInit, h]

/-- ABSORB's execution with an active variant (R157). -/
theorem execute_absorb {s : State} {v : Variant} (f : Inflight) (h : s.activeVariant = some v) :
    execute .absorb f s =
      .next (s.replaceLanes (s.lanesSet && s.blockSetBelow v.rateLanes) (absorbBlock v s.block s.lanes)) := by
  simp only [execute, completeAbsorb]
  rw [h]

/-- ABSORB_LAST's execution with an active variant and LEN < RATE_BYTES (R158). -/
theorem execute_absorbLast {s : State} {v : Variant} {len : Nat} (f : Inflight) (h : s.activeVariant = some v)
    (hl : len < v.rateBytes) :
    execute (.absorbLast len) f s = .next {
      s.replaceLanes (s.lanesSet && s.blockSetBelow ((len + 7) / 8)) (absorbFinal v len s.block s.lanes) with
      phase := .squeeze } := by
  simp only [execute, completeAbsorbLast]
  rw [h]
  simp only [hl, if_true]

/-- ROUND's execution with IR in 0..23 (R142). -/
theorem execute_round (f : Inflight) (s : State) (ir : Fin 24) :
    execute (.round ir.val) f s = .next (s.replaceLanes s.lanesSet (keccakRound s.lanes ir)) := by
  simp only [execute, mapLanesAtRound, ir.isLt, dif_pos, Fin.eta]

/-- IOTA's execution with IR in 0..23 (R129). -/
theorem execute_iota (f : Inflight) (s : State) (ir : Fin 24) :
    execute (.iota ir.val) f s = .next (s.replaceLanes s.lanesSet (iota s.lanes ir)) := by
  simp only [execute, mapLanesAtRound, ir.isLt, dif_pos, Fin.eta]

theorem lanesSet_iff (s : State) : s.lanesSet = true ↔ s.AllLanesSet := decide_eq_true_iff

theorem blockSetBelow_iff (s : State) (n : Nat) : s.blockSetBelow n = true ↔ s.WordsSetBelow n := decide_eq_true_iff

theorem lanesSet_eq_false (s : State) : s.lanesSet = false ↔ ∃ i : Fin 25, s.laneSet[i] = false := by
  simp [State.lanesSet, Fin.exists_iff]

theorem blockSetBelow_eq_false (s : State) (n : Nat) :
    s.blockSetBelow n = false ↔ ∃ j : Fin 18, j.val < n ∧ s.blockSet[j] = false := by
  simp [State.blockSetBelow, Fin.exists_iff]

/-- A command finds an operand with no value only where there is one. -/
theorem somethingUnset_of_false {s : State} {n : Nat} (h : (s.lanesSet && s.blockSetBelow n) = false) :
    s.SomethingUnset := by
  rcases Bool.and_eq_false_iff.1 h with h | h
  · exact .inl ((lanesSet_eq_false s).1 h)
  · obtain ⟨j, -, hj⟩ := (blockSetBelow_eq_false s n).1 h
    exact .inr ⟨j, hj⟩

/-- The completion of a command that replaces the lanes, when all it reads has a value (R111). -/
theorem exec_of_set {s : State} {i : Instr} {v : BitVec 3} {k : Bool} {A : Lanes} (h : s.completing i v)
    (he : execute i ⟨i, v⟩ s = .next (s.replaceLanes k A)) (hk : k = true) :
    exec i s = .next { s with lanes := A, inflight := none, done := true, turns := s.turns.tail } := by
  subst hk
  exact exec_of_completing h he

/-- The completion of a command that replaces the lanes, when something it reads has no value (R22). -/
theorem exec_of_unset {s : State} {i : Instr} {v : BitVec 3} {k : Bool} {A : Lanes} (h : s.completing i v)
    (he : execute i ⟨i, v⟩ s = .next (s.replaceLanes k A)) (hk : k = false) :
    exec i s = .next { s with
      lanes := drawLanes s.draws, laneSet := Vector.replicate 25 false, draws := s.draws + 25,
      inflight := none, done := true, turns := s.turns.tail } := by
  subst hk
  exact exec_of_completing h he

/-- ABSORB finds all it reads with a value when every lane and every rate word has one (R157, R158). -/
theorem operandsSet_of {s : State} {n : Nat} (hl : s.AllLanesSet) (hw : s.WordsSetBelow n) :
    (s.lanesSet && s.blockSetBelow n) = true := by
  simp [(lanesSet_iff s).2 hl, (blockSetBelow_iff s n).2 hw]

/-- Which lanes have a value, and how many draws there have been, after a command that replaces the lanes: as before, or
none, with 25 draws more, and this only where something has no value. -/
def State.MarksAfter (s : State) (m : Vector Bool 25) (d : Nat) : Prop :=
  (m = s.laneSet ∧ d = s.draws) ∨ (s.SomethingUnset ∧ m = Vector.replicate 25 false ∧ d = s.draws + 25)

theorem replaceLanes_cases {s : State} {k : Bool} (A : Lanes) (h : k = false → s.SomethingUnset) :
    ∃ L m d, s.MarksAfter m d ∧ s.replaceLanes k A = { s with lanes := L, laneSet := m, draws := d } := by
  cases k
  · exact ⟨_, _, _, .inr ⟨h rfl, rfl, rfl⟩, rfl⟩
  · exact ⟨_, _, _, .inl ⟨rfl, rfl⟩, rfl⟩

/-- What an execution that goes on can do: nothing, start a computation, or replace the lanes, which ABSORB_LAST follows
with phase SQUEEZE. -/
theorem execute_cases {i : Instr} {f : Inflight} {s t : State} (h : execute i f s = .next t) :
    (i = .nop ∧ t = s) ∨
    (∃ v, i = .init ∧ Variant.ofCode f.variant = some v ∧ t = { s with
      lanes := zeroLanes, laneSet := Vector.replicate 25 true, activeVariant := some v, phase := .absorb }) ∨
    (∃ v n L m d, i = .absorbLast n ∧ s.activeVariant = some v ∧ n < v.rateBytes ∧ s.MarksAfter m d ∧
      t = { s with lanes := L, laneSet := m, draws := d, phase := .squeeze }) ∨
    (∃ L m d, i ≠ .nop ∧ i ≠ .init ∧ (∀ n, i ≠ .absorbLast n) ∧ s.MarksAfter m d ∧
      t = { s with lanes := L, laneSet := m, draws := d }) := by
  have hs : s.lanesSet = false → s.SomethingUnset := fun h => .inl ((lanesSet_eq_false s).1 h)
  cases i
  case nop => left; simpa [execute, completeNop, eq_comm] using h
  case init =>
    right; left
    simp only [execute, completeInit] at h
    split at h
    · cases h
    next v hv => exact ⟨v, rfl, hv, (Host.Outcome.next.inj h).symm⟩
  case absorbLast n =>
    right; right; left
    simp only [execute, completeAbsorbLast] at h
    split at h
    · cases h
    next v hv =>
      split at h
      next hl =>
        obtain ⟨L, m, d, hm, hr⟩ := replaceLanes_cases (absorbFinal v n s.block s.lanes)
          (somethingUnset_of_false (n := (n + 7) / 8))
        rw [hr] at h
        exact ⟨v, n, L, m, d, rfl, hv, hl, hm, (Host.Outcome.next.inj h).symm⟩
      · cases h
  all_goals right; right; right
  case absorb =>
    simp only [execute, completeAbsorb] at h
    split at h
    · cases h
    next v hv =>
      obtain ⟨L, m, d, hm, hr⟩ := replaceLanes_cases (absorbBlock v s.block s.lanes)
        (somethingUnset_of_false (n := v.rateLanes))
      exact ⟨L, m, d, by simp, by simp, by simp, hm, (Host.Outcome.next.inj h).symm.trans hr⟩
  case round ir | iota ir =>
    simp only [execute, mapLanesAtRound] at h
    split at h
    · obtain ⟨L, m, d, hm, hr⟩ := replaceLanes_cases _ hs
      exact ⟨L, m, d, by simp, by simp, by simp, hm, (Host.Outcome.next.inj h).symm.trans hr⟩
    · cases h
  all_goals
    obtain ⟨L, m, d, hm, hr⟩ := replaceLanes_cases _ hs
    exact ⟨L, m, d, by simp, by simp, by simp, hm, (Host.Outcome.next.inj h).symm.trans hr⟩

/-- What acceptance can do (R86): ignore the word, record one error, or start the command. -/
theorem accept_cases (v : Except CmdError Instr) (s : State) :
    (s.err.isSome = true ∧ accept v s = s) ∨
    (∃ e, s.err = none ∧ accept v s = raiseError e s) ∨
    (∃ i, s.err = none ∧ s.busy = false ∧ v = .ok i ∧ accept v s = startCommand i s) := by
  unfold accept
  cases s.err <;> cases s.busy <;> cases v <;> simp <;> exact ⟨_, rfl⟩

/-- A verdict that admits names the command itself. -/
theorem verdict_ok {i j : Instr} {s : State} (h : verdict i s = .ok j) : j = i := by
  cases i <;> simp only [verdict, admitInit, admitAbsorb, admitAbsorbLast, admitSqueeze, admitRoundIndex] at h <;>
    (try split at h) <;> (try split at h) <;> cases h <;> rfl

/-- An admitted command meets its conditions with the variant it captures. -/
theorem admits_of_verdict {i j : Instr} {s : State} (h : verdict i s = .ok j) : s.admits ⟨i, s.cfgVariant⟩ := by
  cases i <;> simp only [verdict, admitInit, admitAbsorb, admitAbsorbLast, admitSqueeze, admitRoundIndex] at h <;>
    simp only [State.admits] <;> (try split at h) <;> (try split at h) <;> simp_all

/-- A command that was admitted executes: "Execute never raises an error" (R88, R181). -/
theorem execute_of_admits {s : State} {f : Inflight} (ha : s.admits f)
    (hv : s.phase = .idle ↔ s.activeVariant = none) : ∃ u, execute f.command f s = .next u := by
  unfold State.admits at ha
  cases hc : f.command <;> rw [hc] at ha <;> simp only at ha
  case init =>
    obtain ⟨v, hv⟩ := Option.isSome_iff_exists.1 ha
    exact ⟨_, execute_init s hv⟩
  case absorb =>
    cases hav : s.activeVariant with
    | none => rw [hv.2 hav] at ha; cases ha
    | some v => exact ⟨_, execute_absorb f hav⟩
  case absorbLast n =>
    cases hav : s.activeVariant with
    | none => rw [hv.2 hav] at ha; cases ha.1
    | some v =>
      have hl := ha.2
      simp only [lenInRange, hav, decide_eq_true_eq] at hl
      exact ⟨_, execute_absorbLast f hav hl⟩
  case round ir => exact ⟨_, execute_round f s ⟨ir, ha⟩⟩
  case iota ir => exact ⟨_, execute_iota f s ⟨ir, ha⟩⟩
  all_goals exact ⟨_, rfl⟩

end Sys2Proof.Machine
end

