-- ==== Sys2Proof/Laws/Bus.lean ====
section
/-! SUPPORT. The window's address map and what one step can do, said once. -/

namespace Sys2Proof.Machine

@[simp] theorem decodeAccess_own (r : Reg) : decodeAccess r.offset 8 = some r := by
  have hs : ∀ i : Fin 25, decodeAccess (Reg.state i).offset 8 = some (.state i) := by decide
  have hb : ∀ j : Fin 18, decodeAccess (Reg.block j).offset 8 = some (.block j) := by decide
  have hr : ∀ k : Fin 24, decodeAccess (Reg.rc k).offset 8 = some (.rc k) := by decide
  cases r
  case state i => exact hs i
  case block j => exact hb j
  case rc k => exact hr k
  all_goals decide

/-- An access reaches a register exactly when it is 8 bytes at the register's own offset (R51, R53). -/
theorem decodeAccess_eq_some {offset : Fin 0x400} {size : Nat} {r : Reg} :
    decodeAccess offset size = some r ↔ size = 8 ∧ offset = r.offset := by
  constructor
  · intro h
    unfold decodeAccess at h
    split at h
    next hs =>
      refine ⟨hs.1, Fin.ext ?_⟩
      have ha := hs.2
      unfold regOfWord at h
      split_ifs at h <;> cases h <;> simp only [Reg.offset, Fin.isValue] <;> omega
    · cases h
  · rintro ⟨rfl, rfl⟩
    exact decodeAccess_own r

/-- Reading changes nothing but the count of draws (R51, R58). -/
theorem readReg_state (r : Reg) (s : State) :
    (readReg r s).2 = s ∨ (readReg r s).2 = { s with draws := s.draws + 1 } := by
  cases r <;> simp only [readReg] <;> (try split) <;> simp

/-- What one step can do. -/
inductive StepCase (s t : State) : Prop where
  | idle (h : t = s.endIdleTurn)
  | complete (f : Inflight) (u : State) (hm : s.mover = .core) (hf : s.inflight = some f)
      (he : execute f.command f s = .next u) (h : t = finishCommand u)
  | read (r : Reg) (hr : s.hostReads r) (h : t = (readReg r s).2.endHostTurn (.readOk (readReg r s).1))
  | busError (a : Response) (hm : s.mover = .host) (h : t = busError a s)
  | writeState (i : Fin 25) (v : Word) (hw : s.hostWrites (.state i) v) (hb : s.busy = false)
      (h : t = (s.setLane i v).endHostTurn .writeOk)
  | writeBlock (j : Fin 18) (v : Word) (hw : s.hostWrites (.block j) v) (hb : s.busy = false)
      (h : t = (s.setBlock j v).endHostTurn .writeOk)
  | writeBusy (hm : s.mover = .host) (hb : s.busy = true) (h : t = (raiseError .busy s).endHostTurn .writeOk)
  | writeStatus (v : Word) (hw : s.hostWrites .status v) (h : t = (writeStatus v s).endHostTurn .writeOk)
  | writeConfig (v : Word) (hw : s.hostWrites .config v) (h : t = (writeConfig v s).endHostTurn .writeOk)
  | writeIgnored (hm : s.mover = .host) (h : t = s.endHostTurn .writeOk)
  | start (w : Word) (i : Instr) (hw : s.hostWrites .cmd w) (hd : decode w = .ok i) (he : s.err = none)
      (hb : s.busy = false) (ha : verdict i s = .ok i) (h : t = (startCommand i s).endHostTurn .writeOk)
  | refuse (w : Word) (e : CmdError) (hw : s.hostWrites .cmd w) (he : s.err = none)
      (h : t = (raiseError e s).endHostTurn .writeOk)
  | wait (hm : s.mover = .host)
      (h : t = { s.endHostTurn (.readOk (statusWord s)) with
        program := if s.busy then s.program else s.program.tail })
  | reset (hr : s.resetComes) (h : t = s.afterReset)

/-- What an acceptance in a step can do. -/
theorem StepCase.ofAccept {s t : State} {w : Word} {v : Except CmdError Instr} (hw : s.hostWrites .cmd w)
    (hv : ∀ i, v = .ok i → decode w = .ok i ∧ verdict i s = .ok i)
    (h : t = (accept v s).endHostTurn .writeOk) : StepCase s t := by
  rcases accept_cases v s with ⟨-, ha⟩ | ⟨e, he, ha⟩ | ⟨i, he, hb, hi, ha⟩ <;> rw [ha] at h
  · exact .writeIgnored hw.1 h
  · exact .refuse w e hw he h
  · exact .start w i hw (hv i hi).1 he hb (hv i hi).2 h

/-- What a register write in a step can do. -/
theorem StepCase.ofWriteReg {s t : State} {r : Reg} {v : Word} (hw : s.hostWrites r v)
    (h : writeReg exec r v s = .next t) : StepCase s t := by
  cases r with
  | state i =>
    cases hb : s.busy <;> simp only [writeReg, writeDone, hb] at h <;> cases h
    · exact .writeState i v hw hb rfl
    · exact .writeBusy hw.1 hb rfl
  | block j =>
    cases hb : s.busy <;> simp only [writeReg, writeDone, hb] at h <;> cases h
    · exact .writeBlock j v hw hb rfl
    · exact .writeBusy hw.1 hb rfl
  | cmd =>
    simp only [writeReg, writeCmd] at h
    split at h
    next i hd =>
      rw [exec_of_host i hw.1] at h
      exact .ofAccept hw (fun j hj => by cases verdict_ok hj; exact ⟨hd, hj⟩) (Host.Outcome.next.inj h).symm
    next e hd => exact .ofAccept hw (fun i hi => by cases hi) (Host.Outcome.next.inj h).symm
  | status => exact .writeStatus v hw (Host.Outcome.next.inj h).symm
  | config => exact .writeConfig v hw (Host.Outcome.next.inj h).symm
  | param => exact .writeIgnored hw.1 (Host.Outcome.next.inj h).symm
  | info => exact .writeIgnored hw.1 (Host.Outcome.next.inj h).symm
  | rc k => exact .writeIgnored hw.1 (Host.Outcome.next.inj h).symm

/-- The inversion of step: a step that goes on is one of the cases above. -/
theorem step_cases {s t : State} (h : step s = .next t) : StepCase s t := by
  unfold step at h
  split at h
  next hm =>
    unfold hostMove at h
    split at h
    next => exact .idle (Host.Outcome.next.inj h).symm
    next offset size rest hp =>
      have ht := (Host.Outcome.next.inj h).symm
      unfold hostRead at ht
      split at ht
      · exact .busError _ hm ht
      next r hr =>
        obtain ⟨rfl, rfl⟩ := decodeAccess_eq_some.1 hr
        exact .read r ⟨hm, rest, hp⟩ ht
    next offset size v rest hp =>
      unfold hostWrite at h
      split at h
      · exact .busError _ hm (Host.Outcome.next.inj h).symm
      next r hr =>
        obtain ⟨rfl, rfl⟩ := decodeAccess_eq_some.1 hr
        exact .ofWriteReg ⟨hm, rest, hp⟩ h
    next => exact .wait hm (Host.Outcome.next.inj h).symm
    next rest hp => exact .reset ⟨hm, rest, hp⟩ (Host.Outcome.next.inj h).symm
  next hm =>
    unfold coreMove at h
    split at h
    next => exact .idle (Host.Outcome.next.inj h).symm
    next f hf =>
      obtain ⟨u, hu, ht⟩ := exec_core_next hm hf h
      exact .complete f u hm hf hu ht

/-- A step of the host's with a register write as its input is that write (R53). -/
theorem step_of_hostWrites {s : State} {r : Reg} {v : Word} (h : s.hostWrites r v) :
    step s = writeReg exec r v s := by
  obtain ⟨hm, rest, hp⟩ := h
  simp [step, hm, hostMove, hp, hostWrite]

/-- A step of the host's with a register read as its input is that read (R53). -/
theorem step_of_hostReads {s : State} {r : Reg} (h : s.hostReads r) :
    step s = .next ((readReg r s).2.endHostTurn (.readOk (readReg r s).1)) := by
  obtain ⟨hm, rest, hp⟩ := h
  simp [step, hm, hostMove, hp, hostRead]

/-- A step of the core's with a command in flight is that command's completion (R88). -/
theorem step_of_completing {s : State} {i : Instr} {v : BitVec 3} (h : s.completing i v) : step s = exec i s := by
  obtain ⟨hm, hf⟩ := h
  simp [step, hm, coreMove, hf]

/-- A reset input is the reset event (R200). -/
theorem step_of_resetComes {s : State} (h : s.resetComes) : step s = .next s.afterReset := by
  obtain ⟨hm, rest, hp⟩ := h
  simp [step, hm, hostMove, hp]

end Sys2Proof.Machine
end

