-- ==== Sys2Proof/Laws/Acceptance.lean ====
section
/-! SUPPORT. The acceptance procedure as the spec writes it (30_encoding R86) against the decoder and the commands' checks. -/

namespace Sys2Proof.Machine

/-- A word that names no command is refused for what the decoder says (R83, R86). -/
theorem refusalOf_of_decode_error {w : Word} {s : State} {e : DecodeError} (hb : s.busy = false)
    (hd : decode w = .error e) : refusalOf w s = some (DecodeError.cmdError e) := by
  unfold decode at hd
  simp only [opcodeField_eq, lenField_eq, irField_eq] at hd
  simp only [refusalOf, hb]
  split at hd
  next h =>
    cases hd
    rw [if_neg (by simp), if_pos]
    · rfl
    · intro hm
      simp only [List.mem_cons, List.not_mem_nil, or_false] at hm
      rcases hm with h' | h' | h' | h' | h' | h' | h' | h' | h' | h' | h' | h' <;> simp [h', opcodeMap] at h
  next i h =>
    split at hd
    · cases hd
    next hu =>
    cases hd
    simp only [unusedFieldsClear, Bool.and_eq_true, Bool.or_eq_true, beq_iff_eq, reservedBits_eq, lenField_eq,
      irField_eq] at hu
    rw [if_neg (by simp), if_neg, if_pos]
    · rfl
    all_goals
      rcases opcodeMap_cases h with ⟨ho, rfl⟩ | ⟨ho, rfl⟩ | ⟨ho, rfl⟩ | ⟨ho, rfl⟩ | ⟨ho, rfl⟩ | ⟨ho, rfl⟩ |
        ⟨ho, rfl⟩ | ⟨ho, rfl⟩ | ⟨ho, rfl⟩ | ⟨ho, rfl⟩ | ⟨ho, rfl⟩ | ⟨ho, rfl⟩ <;>
        simp only [ho, Instr.usesLen, Instr.usesIr] at hu ⊢ <;> simp at hu ⊢ <;> omega

/-- LEN is in range exactly when it is below RATE_BYTES, which is 0 with no active variant (R34, log 11). -/
theorem lenInRange_eq (len : Nat) (s : State) : lenInRange len s.activeVariant = decide (len < s.rateBytes) := by
  unfold lenInRange State.rateBytes
  cases s.activeVariant <;> simp

/-- A word that names a command is refused exactly when the command's own checks refuse it (R86). -/
theorem refusalOf_of_decode_ok {w : Word} {s : State} {i : Instr} (hb : s.busy = false) (hd : decode w = .ok i) :
    refusalOf w s = match verdict i s with
      | .error e => some e
      | .ok _ => none := by
  have hv : ∀ c : BitVec 3, (Variant.ofCode c).isSome = decide (c.toNat ∈ [1, 2, 3, 4]) := by decide
  unfold decode at hd
  simp only [opcodeField_eq, lenField_eq, irField_eq] at hd
  split at hd
  · cases hd
  next i h =>
    split at hd
    next hu =>
      cases hd
      simp only [unusedFieldsClear, Bool.and_eq_true, Bool.or_eq_true, beq_iff_eq, reservedBits_eq, lenField_eq,
        irField_eq] at hu
      obtain ⟨⟨hr, hl⟩, hi⟩ := hu
      simp only [refusalOf, hb, hr]
      rcases opcodeMap_cases h with ⟨ho, rfl⟩ | ⟨ho, rfl⟩ | ⟨ho, rfl⟩ | ⟨ho, rfl⟩ | ⟨ho, rfl⟩ | ⟨ho, rfl⟩ |
        ⟨ho, rfl⟩ | ⟨ho, rfl⟩ | ⟨ho, rfl⟩ | ⟨ho, rfl⟩ | ⟨ho, rfl⟩ | ⟨ho, rfl⟩ <;>
        simp only [Instr.usesLen, Instr.usesIr, Bool.false_eq_true, false_or, true_or] at hl hi
      case inr.inl =>
        by_cases hc : s.cfgVariant.toNat ∈ [1, 2, 3, 4] <;> simp [verdict, admitInit, hv, ho, hl, hi, hc]
      case inr.inr.inl => by_cases hc : s.phase = .absorb <;> simp [verdict, admitAbsorb, ho, hl, hi, hc]
      case inr.inr.inr.inl =>
        by_cases hc : s.phase = .absorb <;> by_cases hn : w.toNat / 256 % 256 < s.rateBytes <;>
          simp [verdict, admitAbsorbLast, lenInRange_eq, ho, hi, hc, hn, Nat.not_le.2, Nat.not_lt.1]
      case inr.inr.inr.inr.inl => by_cases hc : s.phase = .squeeze <;> simp [verdict, admitSqueeze, ho, hl, hi, hc]
      case inr.inr.inr.inr.inr.inr.inl | inr.inr.inr.inr.inr.inr.inr.inr.inr.inr.inr =>
        by_cases hc : w.toNat / 65536 % 32 < 24 <;> simp [verdict, admitRoundIndex, ho, hl, hc, Nat.not_le.2, Nat.not_lt.1]
      all_goals simp [verdict, ho, hl, hi]
    · cases hd

end Sys2Proof.Machine
end

