-- ==== Sys2Proof/Laws/Flags.lean ====
section
/-! SUPPORT. The bits of STATUS and CONFIG as words (10_state R25, R32). -/

namespace Sys2Proof.Machine

theorem getLsbD_fieldAt {n : Nat} (lo : Nat) (field : BitVec n) (b : Nat) :
    (fieldAt lo field).getLsbD b = (decide (b < 64) && decide (lo ≤ b) && field.getLsbD (b - lo)) := by
  by_cases hb : b < 64 <;> by_cases hl : lo ≤ b
  · simp [fieldAt, hb, hl, Nat.not_lt.2 hl]
  · simp [fieldAt, hb, hl, Nat.lt_of_not_le hl]
  · simp [fieldAt, hb]
  · simp [fieldAt, hb]

/-- A one-bit field shows at its own bit only. -/
theorem one_bit_field (lo b : Nat) (x : Bool) :
    (decide (lo ≤ b) && (BitVec.ofBool x).getLsbD (b - lo)) = (decide (b = lo) && x) := by
  by_cases h : b = lo
  · subst h; cases x <;> simp
  · by_cases hl : lo ≤ b
    · have : b - lo ≠ 0 := by omega
      simp [h, hl, BitVec.getLsbD_ofBool, this]
    · simp [h, hl]

theorem getLsbD_statusWord (s : State) (b : Nat) (hb : b < 64) :
    (statusWord s).getLsbD b =
      ((decide (b = 0) && s.busy) || (decide (b = 1) && s.done) || (decide (b = 2) && s.err.isSome) ||
        (decide (4 ≤ b) && s.phase.code.getLsbD (b - 4)) ||
        (decide (8 ≤ b) && (activeCode s.activeVariant).getLsbD (b - 8)) ||
        (decide (16 ≤ b) && (errCode s.err).getLsbD (b - 16))) := by
  have h0 := one_bit_field 0 b s.busy
  simp only [Nat.zero_le, decide_true, Bool.true_and] at h0
  simp only [statusWord, BitVec.getLsbD_or, getLsbD_fieldAt, hb, decide_true, Bool.true_and, one_bit_field, h0, Nat.zero_le]

theorem getLsbD_configWord (s : State) (b : Nat) (hb : b < 64) :
    (configWord s).getLsbD b =
      (s.cfgVariant.getLsbD b || (decide (b = 8) && s.irqEnDone) || (decide (b = 9) && s.irqEnErr)) := by
  simp only [configWord, BitVec.getLsbD_or, getLsbD_fieldAt, hb, decide_true, Bool.true_and, one_bit_field, Nat.zero_le,
    Nat.sub_zero]

end Sys2Proof.Machine
end

