-- ==== Sys2Proof/Laws/PerInstr.lean ====
section
/-! SUPPORT. Statements about every command as syntax, one lemma a constructor. -/

namespace Sys2Proof.Laws.RoundTrip

/-- Decoding a well-formed command's word gives the command back, with its operand (30_encoding R82). -/
def Statement (i : Instr) : Prop := i.wf = true → decode (encode i) = .ok i

theorem absorbLast_words : ∀ n < 256, decode (encode (.absorbLast n)) = .ok (.absorbLast n) := by decide +kernel
theorem round_words : ∀ n < 32, decode (encode (.round n)) = .ok (.round n) := by decide +kernel
theorem iota_words : ∀ n < 32, decode (encode (.iota n)) = .ok (.iota n) := by decide +kernel

theorem nop : Statement .nop := fun _ => rfl
theorem init : Statement .init := fun _ => rfl
theorem absorb : Statement .absorb := fun _ => rfl
theorem absorbLast (len : Nat) : Statement (.absorbLast len) := fun h =>
  absorbLast_words len (by simpa [Instr.wf] using h)
theorem squeeze : Statement .squeeze := fun _ => rfl
theorem permute : Statement .permute := fun _ => rfl
theorem round (ir : Nat) : Statement (.round ir) := fun h => round_words ir (by simpa [Instr.wf] using h)
theorem theta : Statement .theta := fun _ => rfl
theorem rho : Statement .rho := fun _ => rfl
theorem pi : Statement .pi := fun _ => rfl
theorem chi : Statement .chi := fun _ => rfl
theorem iota (ir : Nat) : Statement (.iota ir) := fun h => iota_words ir (by simpa [Instr.wf] using h)

end Sys2Proof.Laws.RoundTrip
end

