-- ==== Sys2Proof/Laws/RoundFunctions.lean ====
section
/-! SUPPORT. What each step mapping does to the lane in column x and row y, said once, in coordinates mod 5 (00_scope R12). -/

namespace Sys2Proof.Machine

/-- The index mux takes coordinates mod 5 (R110). -/
theorem laneAt_eq_grid (A : Lanes) (m n : Nat) : laneAt A m n = grid A (Fin.ofNat 5 m) (Fin.ofNat 5 n) := rfl

/-- The lane of a state built coordinate by coordinate. -/
@[simp] theorem grid_buildLanes (f : Nat → Nat → Word) (x y : Fin 5) : grid (buildLanes f) x y = f x.val y.val := by
  have hx := x.isLt
  simp only [grid, buildLanes, Vector.getElem_ofFn]
  congr 1 <;> omega

/-- Two states with the same lane at every coordinate are equal. -/
theorem lanes_eq_of_grid {A B : Lanes} (h : ∀ x y, grid A x y = grid B x y) : A = B := by
  apply Vector.ext
  intro i hi
  have := h ⟨i % 5, by omega⟩ ⟨i / 5, by omega⟩
  simp only [grid] at this
  have hi' : 5 * (i / 5) + i % 5 = i := by omega
  simpa [hi'] using this

@[simp] theorem laneAt_val (A : Lanes) (x y : Fin 5) : laneAt A x.val y.val = grid A x y := by
  rw [laneAt_eq_grid]; congr 1 <;> apply Fin.ext <;> simp

theorem laneAt_add (A : Lanes) (x y : Fin 5) (k : Nat) :
    laneAt A (x.val + k) y.val = grid A (x + Fin.ofNat 5 k) y := by
  rw [laneAt_eq_grid]; congr 1 <;> apply Fin.ext <;> simp [Fin.val_add]

/-- Rotation left moves bit i to bit (i + n) mod 64 (R11). -/
theorem rotl_eq_rotateLeft (v : Word) (n : Nat) : rotl v n = v.rotateLeft n := by
  simp [rotl, BitVec.rotateLeft, BitVec.rotateLeftAux]

theorem getLsbD_rotl (v : Word) (n b : Nat) (hb : b < 64) : (rotl v n).getLsbD ((b + n) % 64) = v.getLsbD b := by
  rw [rotl_eq_rotateLeft, BitVec.getLsbD_rotateLeft]
  by_cases h : (b + n) % 64 < n % 64
  · simp only [h, decide_true, cond_true]; congr 1; omega
  · simp only [h, decide_false, cond_false, Nat.mod_lt _ (by decide : 64 > 0), decide_true, Bool.true_and]
    congr 1; omega

/-- theta at a coordinate (R112). -/
theorem grid_theta (A : Lanes) (x y : Fin 5) :
    grid (theta A) x y = grid A x y ^^^
      ((grid A (x - 1) 0 ^^^ grid A (x - 1) 1 ^^^ grid A (x - 1) 2 ^^^ grid A (x - 1) 3 ^^^ grid A (x - 1) 4) ^^^
        (grid A (x + 1) 0 ^^^ grid A (x + 1) 1 ^^^ grid A (x + 1) 2 ^^^ grid A (x + 1) 3 ^^^
          grid A (x + 1) 4).rotateLeft 1) := by
  have h (k : Nat) : columnParity A (x.val + k) =
      grid A (x + Fin.ofNat 5 k) 0 ^^^ grid A (x + Fin.ofNat 5 k) 1 ^^^ grid A (x + Fin.ofNat 5 k) 2 ^^^
        grid A (x + Fin.ofNat 5 k) 3 ^^^ grid A (x + Fin.ofNat 5 k) 4 := by
    simp only [columnParity]
    exact congrArg₂ _ (congrArg₂ _ (congrArg₂ _ (congrArg₂ _ (laneAt_add A x 0 k) (laneAt_add A x 1 k))
      (laneAt_add A x 2 k)) (laneAt_add A x 3 k)) (laneAt_add A x 4 k)
  have hx : x + Fin.ofNat 5 4 = x - 1 := by clear h; revert x; decide
  simp only [theta, grid_buildLanes, laneAt_val, thetaEffect, h, hx, rotl_eq_rotateLeft]
  rfl

/-- rho at a lane (R115). -/
theorem getElem_rho (A : Lanes) (i : Fin 25) : (rho A)[i] = rotl A[i] rhoOffsets[i] := by
  simp [rho]

/-- pi at a coordinate (R117). -/
theorem grid_pi (A : Lanes) (x y : Fin 5) : grid (pi A) x y = grid A (x + 3 * y) x := by
  simp only [pi, grid_buildLanes, laneAt_eq_grid]
  congr 1 <;> apply Fin.ext <;> simp [Fin.val_add, Fin.val_mul]

/-- chi at a coordinate (R118). -/
theorem grid_chi (A : Lanes) (x y : Fin 5) :
    grid (chi A) x y = grid A x y ^^^ (~~~(grid A (x + 1) y) &&& grid A (x + 2) y) := by
  simp only [chi, grid_buildLanes, laneAt_val, laneAt_add]
  rfl

/-- iota at a coordinate (R122). -/
theorem grid_iota (A : Lanes) (ir : Fin 24) (x y : Fin 5) :
    grid (iota A ir) x y = if x = 0 ∧ y = 0 then grid A 0 0 ^^^ roundConstants[ir] else grid A x y := by
  simp only [grid, iota, Vector.getElem_set]
  by_cases h : x = 0 ∧ y = 0
  · obtain ⟨rfl, rfl⟩ := h; simp
  · rw [if_neg (by intro h0; exact h ⟨by omega, by omega⟩), if_neg h]

end Sys2Proof.Machine
end

