-- ==== Sys2Proof/Laws/Sponge.lean ====
section
/-! SUPPORT. The bytes of words, lanes and blocks, the padded block, and what XORing a block in does to each lane and byte. -/

namespace Sys2Proof.Machine

theorem getElem_xorWords (A : Lanes) (word : Nat → Word) (rl : Nat) (i : Fin 25) :
    (xorWords A word rl)[i] = if i.val < rl then A[i] ^^^ word i.val else A[i] := by
  simp [xorWords]

@[simp] theorem length_pad (msg : List Byte) (n rate : Nat) : (pad msg n rate).length = rate := by simp [pad]

@[simp] theorem length_digestOf (v : Variant) (A : Lanes) : (digestOf v A).length = v.outBytes := by simp [digestOf]

theorem getD_pad (msg : List Byte) (n rate k : Nat) :
    (pad msg n rate).getD k 0 = if k < rate then padByte msg n rate k else 0 := by
  simp only [pad, List.getD_eq_getElem?_getD, List.getElem?_map]
  split <;> simp_all

/-- Bit `8j + b` of bytes packed into a word is bit `b` of byte `j`. -/
theorem getLsbD_packBytes (P : Nat → Byte) {j b : Nat} (hb : b < 8) : ∀ n, n ≤ 8 →
    ((List.range n).foldl (fun w i => w ||| (P i).setWidth 64 <<< (8 * i)) (0 : Word)).getLsbD (8 * j + b) =
      (decide (j < n) && (P j).getLsbD b)
  | 0, _ => by simp
  | n + 1, hn => by
    rw [List.range_succ, List.foldl_concat, BitVec.getLsbD_or, getLsbD_packBytes P hb n (by omega)]
    rcases Nat.lt_trichotomy j n with h | rfl | h
    · have h8 : 8 * j + b < 8 * n := by omega
      simp [h, Nat.lt_succ_of_lt h, h8]
    · have h64 : 8 * j + b < 64 := by omega
      simp [h64, hb]
    · have h8 : (P n).getLsbD (8 * j + b - 8 * n) = false := BitVec.getLsbD_of_ge _ _ (by omega)
      have h1 : ¬ j < n := by omega
      have h2 : ¬ j < n + 1 := by omega
      simp [h1, h2, h8]

/-- The bytes of a packed word (R54). -/
theorem byteOfWord_wordOfBytes (P : List Byte) (i j : Nat) (hj : j < 8) :
    byteOfWord (wordOfBytes P i) j = P.getD (8 * i + j) 0 := by
  apply BitVec.eq_of_getLsbD_eq
  intro b hb
  simp only [byteOfWord, wordOfBytes, BitVec.getLsbD_extractLsb', getLsbD_packBytes _ hb 8 (Nat.le_refl 8), hb, hj,
    decide_true, Bool.true_and]

theorem getD_of_lt {n i : Nat} (A : Vector Word n) (h : i < n) : A.getD i 0 = A[i] := by
  simp [Vector.getD, Array.getD, h]

theorem byteOfWord_xor (v w : Word) (j : Nat) : byteOfWord (v ^^^ w) j = byteOfWord v j ^^^ byteOfWord w j := by
  simp [byteOfWord, BitVec.extractLsb'_xor]

/-- The state byte after XORing words in (R154). -/
theorem stateByte_xorWords (A : Lanes) (word : Nat → Word) (rl k : Nat) (hk : k < 200) :
    stateByte (xorWords A word rl) k =
      if k / 8 < rl then stateByte A k ^^^ byteOfWord (word (k / 8)) (k % 8) else stateByte A k := by
  have h25 : k / 8 < 25 := by omega
  simp only [stateByte, getD_of_lt _ h25]
  have := getElem_xorWords A word rl ⟨k / 8, h25⟩
  simp only [Fin.getElem_fin] at this
  rw [this]
  split <;> simp [byteOfWord_xor]

/-- The state byte after XORing a byte block of whole words in (R154). -/
theorem stateByte_xorIn (A : Lanes) (P : List Byte) (rl k : Nat) (hk : k < 200) :
    stateByte (xorIn A P rl) k = if k / 8 < rl then stateByte A k ^^^ P.getD k 0 else stateByte A k := by
  rw [xorIn, stateByte_xorWords A _ rl k hk, byteOfWord_wordOfBytes P _ _ (Nat.mod_lt _ (by decide)),
    Nat.div_add_mod]

theorem getD_blockBytes (B : BlockBuffer) (n k : Nat) (hk : k < n) : (blockBytes B n).getD k 0 = blockByte B k := by
  simp [blockBytes, hk]

end Sys2Proof.Machine
end

