-- ==== Sys2Proof/Tests/Slice0.lean ====
section
/-! SUPPORT. Tests against the spec's own encodings and vectors, and a witness for the hypotheses of each obligation. Every
expected value is the spec's (95_test_vectors, R92); the states are small ones built by the helpers below. -/

namespace Sys2Proof.Tests

open Sys2Proof.Machine

set_option Elab.async false

/-! ## Helpers -/

def zeros : Lanes := Vector.replicate 25 0
def ramp : Lanes := Vector.ofFn fun i => BitVec.ofNat 64 i.val

/-- A state after reset, but with lanes and buffer given, all with a value, and with no free value. -/
def idleWith (A : Lanes) (B : BlockBuffer) : State :=
  { lanes := A, block := B, laneSet := Vector.replicate 25 true, blockSet := Vector.replicate 18 true, cmd := 0, done := false, err := none, phase := .idle, activeVariant := none,
    cfgVariant := 0, irqEnDone := false, irqEnErr := false, inflight := none, program := [], turns := [],
    response := none, draws := 0 }

def idle : State := idleWith zeros (Vector.replicate 18 0)

/-- The command `i` in flight, the core to complete it. -/
def inFlight (i : Instr) (v : BitVec 3) (A : Lanes) : State :=
  { idleWith A (Vector.replicate 18 0) with cmd := encode i, inflight := some ⟨i, v⟩ }

/-- After INIT of a variant. -/
def absorbing (v : Variant) : State :=
  { idle with cmd := 1, done := true, phase := .absorb, activeVariant := some v, cfgVariant := v.code }

/-- A sponge command in flight for a variant. -/
def inFlightFor (i : Instr) (v : Variant) (B : BlockBuffer) : State :=
  { absorbing v with block := B, cmd := encode i, done := false, inflight := some ⟨i, v.code⟩ }

/-- `s` with a host access next. -/
def next (a : Input) (s : State) : State := { s with program := [a], turns := [.host] }
def writes (r : Reg) (v : Word) (s : State) : State := next (wrInput r v) s
def reads (r : Reg) (s : State) : State := next (.read r.offset 8) s

def after (a : Answer) (f : State → α) : Option α :=
  match a with
  | .next t => some (f t)
  | .fault _ => none
  | .refused _ => none

/-- STATUS after the host writes a word to CMD. -/
def statusAfterCmd (w : Word) (s : State) : Option Word := after (step (writes .cmd w s)) statusWord

/-! ## Well-formedness: the assembler refuses n > 255 and ir > 31 (R91) -/

theorem test_wf_absorbLast_refused : (Instr.absorbLast 256).wf = false := by decide
theorem test_wf_round_refused : (Instr.round 32).wf = false := by decide
theorem test_wf_iota_refused : (Instr.iota 32).wf = false := by decide
theorem test_wf_line_refused : Line.expand (.command (.absorbLast 256)) = none := by decide

/-! ## Decoding (R82, R83, R92) -/

theorem test_decode_nop : decode 0x0 = .ok .nop := by decide
theorem test_decode_init : decode 0x1 = .ok .init := by decide
theorem test_decode_absorb : decode 0x2 = .ok .absorb := by decide
theorem test_decode_absorbLast : decode 0x303 = .ok (.absorbLast 3) := by decide
theorem test_decode_squeeze : decode 0x4 = .ok .squeeze := by decide
theorem test_decode_permute : decode 0x8 = .ok .permute := by decide
theorem test_decode_round : decode 0x50009 = .ok (.round 5) := by decide
theorem test_decode_theta : decode 0x10 = .ok .theta := by decide
theorem test_decode_rho : decode 0x11 = .ok .rho := by decide
theorem test_decode_pi : decode 0x12 = .ok .pi := by decide
theorem test_decode_chi : decode 0x13 = .ok .chi := by decide
theorem test_decode_iota : decode 0x170014 = .ok (.iota 23) := by decide
theorem test_decode_absorbLast_all_ones : decode 0xFF03 = .ok (.absorbLast 255) := by decide
theorem test_decode_round_all_ones : decode 0x1F0009 = .ok (.round 31) := by decide
theorem test_decode_illegal : [0x5, 0x7, 0xA, 0xF, 0x15, 0xFF, 0x105, 0x200005].map decode =
    List.replicate 8 (.error .illegalOpcode) := by decide +kernel
theorem test_decode_reserved : [0x100, 0x200009, 0x10001, 0x8000000000000008, 0x102, 0x10003, 0x114].map decode =
    List.replicate 7 (.error .reservedField) := by decide +kernel

/-! ## Acceptance (V-E1 to V-E22) -/

theorem test_accept_from_reset : [0x5, 0xFF, 0x105, 0x200005, 0x100, 0x200009, 0x10001, 0x8000000000000008, 0x102, 0x2,
    0x303, 0xFF03, 0x1, 0x180009, 0x1F0014, 0x170009].map (statusAfterCmd · idle) = [0x20004, 0x20004, 0x20004, 0x20004,
    0x30004, 0x30004, 0x30004, 0x30004, 0x30004, 0x40004, 0x40004, 0x40004, 0x50004, 0x60004, 0x60004, 0x1].map some := by
  decide +kernel
theorem test_accept_after_init : statusAfterCmd 0x4 (absorbing .sha3x256) = some 0x40216 ∧
    statusAfterCmd 0x8803 (absorbing .sha3x256) = some 0x60216 ∧
    statusAfterCmd 0x8703 (absorbing .sha3x256) = some 0x211 ∧
    statusAfterCmd 0x4803 (absorbing .sha3x512) = some 0x60416 ∧
    statusAfterCmd 0x8F03 (absorbing .sha3x224) = some 0x111 := by decide +kernel
theorem test_accept_config_5 : statusAfterCmd 0x1 { idle with cfgVariant := 5 } = some 0x50004 := by decide +kernel
/-- V-S1 and V-S2, at acceptance. -/
theorem test_accept_init_nop : statusAfterCmd 0x1 { idle with cfgVariant := 4 } = some 0x1 ∧
    statusAfterCmd 0x0 (absorbing .sha3x512) = some 0x411 := by decide +kernel
/-- V-E27: a command while INIT is in flight, then a STATE write. -/
theorem test_busy_error : after (step (writes .cmd 0 (inFlight .init 1 zeros))) statusWord = some 0x10005 ∧
    after (step (writes (.state 0) 5 { inFlight .init 1 zeros with err := some .busy })) statusWord = some 0x10005 := by
  decide +kernel
/-- V-E28: a command while ERR = 1 is ignored. -/
theorem test_ignored_while_err : after (step (writes .cmd 0x8 { absorbing .sha3x224 with err := some .busy }))
    (fun t => (statusWord t, t.cmd)) = some (0x10116, 0x1) := by decide +kernel

/-! ## The window (V-E23 to V-E31, V-RS1) -/

theorem test_bus_errors :
    after (step (next (.read 0x1C4 8) idle)) (fun t => (statusWord t, t.response)) = some (0x70004, some (.readError 0)) ∧
    after (step (next (.write 0x190 8 1) idle)) (fun t => (statusWord t, t.response)) = some (0x70004, some .writeError) ∧
    after (step (next (.read 0x000 4) idle)) (fun t => (statusWord t, t.response)) = some (0x70004, some (.readError 0)) := by
  decide +kernel
theorem test_read_only : ∀ r ∈ [Reg.info, .param, .rc 0],
    after (step (writes r 5 idle)) (fun t => (statusWord t, t.response)) = some (0, some .writeOk) := by decide +kernel
theorem test_read_info_rc : after (step (reads .info idle)) State.response = some (some (.readOk 0x0000001E12181901)) ∧
    after (step (next (.read 0x2B8 8) idle)) State.response = some (some (.readOk 0x8000000080008008)) := by decide +kernel
/-- V-E29. -/
theorem test_status_write : after (step (writes .status 0x4 { absorbing .sha3x224 with err := some .busy })) statusWord
      = some 0x112 ∧
    after (step (writes .status 0x2 (absorbing .sha3x224))) statusWord = some 0x110 := by decide +kernel
/-- V-E30. -/
theorem test_config_write : after (step (writes .config 0xFFFF idle)) configWord = some 0x307 := by decide +kernel
/-- V-E31, with the NOP still in flight and after its completion. -/
theorem test_config_while_busy : after (step (writes .config 0x302 (inFlightFor .nop .sha3x256 (Vector.replicate 18 0))))
      configWord = some 0x302 ∧
    after (step { inFlightFor .nop .sha3x256 (Vector.replicate 18 0) with irqEnDone := true })
      (fun t => (statusWord t, t.irq)) = some (0x212, true) := by decide +kernel
theorem test_param : [none, some Variant.sha3x224, some .sha3x256, some .sha3x384, some .sha3x512].map paramWord =
    [0, 0x01C00480071C9012, 0x0200044008208811, 0x030003400C30680D, 0x0400024010404809] := by decide +kernel
/-- V-RS1 and V-RS3: what the reset event leaves, also with a command in flight. -/
theorem test_reset_in_flight : after (step (next .reset (inFlight .permute 0 ramp)))
    (fun t => (statusWord t, configWord t, t.cmd, t.inflight, t.irq)) = some (0, 0, 0, none, false) := by decide +kernel
theorem test_first_word_after_reset : after (step (State.reset.withFetchWord 64 0x170009))
    (fun t => (statusWord t, t.cmd, t.inflight)) = some (0x1, 0x170009, some ⟨.round 23, 0⟩) := by decide +kernel
theorem test_table_word : decodeTableWord 64 0x8F03 = some (.absorbLast 143) := by decide

/-! ## The commands at completion -/

def lanesAfter (s : State) : Option Lanes := after (step s) State.lanes

/-- V-S1. -/
theorem test_init : after (step (inFlight .init 4 ramp)) (fun t => (statusWord t, paramWord t.activeVariant, t.lanes)) =
    some (0x412, 0x0400024010404809, zeros) := by decide +kernel
/-- V-S2. -/
theorem test_nop : after (step (inFlightFor .nop .sha3x512 (Vector.replicate 18 0))) (fun t => (statusWord t, t.lanes)) =
    some (0x412, zeros) := by decide +kernel
/-- V-TH4. -/
theorem test_theta : lanesAfter (inFlight .theta 0 ramp) = some #v[0x1A, 0x9, 0xD, 0x1D, 0x2F, 0x1F, 0xE, 0x8, 0x16,
    0x22, 0x10, 0x3, 0x3, 0x13, 0x25, 0x15, 0x18, 0x1E, 0xC, 0x38, 0xE, 0x1D, 0x19, 0x9, 0x33] := by decide +kernel
/-- V-RH3. -/
theorem test_rho : lanesAfter (inFlight .rho 0 ramp) = some #v[0x0, 0x2, 0x8000000000000000, 0x30000000, 0x20000000,
    0x5000000000, 0x600000000000, 0x1C0, 0x400000000000000, 0x900000, 0x50, 0x2C00, 0x600000000000, 0x1A000000,
    0x70000000000, 0x1E0000000000, 0x2000000000000, 0x88000, 0x2400000, 0x1300, 0x500000, 0x54, 0xC000000000000002,
    0x1700000000000000, 0x60000] := by decide +kernel
/-- V-PI1. -/
theorem test_pi : lanesAfter (inFlight .pi 0 ramp) = some #v[0, 6, 12, 18, 24, 3, 9, 10, 16, 22, 1, 7, 13, 19, 20, 4, 5,
    11, 17, 23, 2, 8, 14, 15, 21] := by decide +kernel
/-- V-CH3. -/
theorem test_chi : lanesAfter (inFlight .chi 0 ramp) = some #v[0x2, 0x0, 0x6, 0x3, 0x5, 0x4, 0xE, 0x6, 0xC, 0xB, 0xE,
    0xA, 0xE, 0xD, 0xF, 0xE, 0x12, 0x10, 0x1E, 0x3, 0x16, 0x14, 0x1E, 0x13, 0x19] := by decide +kernel
/-- V-CH1. -/
theorem test_chi_not : lanesAfter (inFlight .chi 0 (zeros.set 2 0xFFFFFFFFFFFFFFFF)) =
    some ((zeros.set 0 0xFFFFFFFFFFFFFFFF).set 2 0xFFFFFFFFFFFFFFFF) := by decide +kernel
/-- V-IO1, V-IO2. -/
theorem test_iota : lanesAfter (inFlight (.iota 23) 0 zeros) = some (zeros.set 0 0x8000000080008008) ∧
    lanesAfter (inFlight (.iota 3) 0 (zeros.set 0 0x8000000080008000)) = some zeros := by decide +kernel
/-- V-R3. -/
theorem test_round : lanesAfter (inFlight (.round 0) 0 ramp) = some #v[0x000018000000001B, 0x0000E00001800000,
    0x00001800000CC000, 0x000000000180001A, 0x0000E000000CC000, 0x00000001D0000080, 0x0003000002200000,
    0x2000000000000083, 0x00030001D0000000, 0x2000000002200003, 0x0000000026000012, 0x0000000000003A00,
    0x0000000026380000, 0x0000000000003812, 0x0000000000380200, 0x0000000178000C00, 0x000001F0000F0000,
    0x0900000000000C00, 0x00000001780F0000, 0x090001F000000000, 0x4000128000000003, 0x0B00280000000000,
    0x0000128000000074, 0x40002A0000000003, 0x0B00000000000074] := by decide +kernel
/-- V-R2. -/
theorem test_round_23 : lanesAfter (inFlight (.round 23) 0 zeros) = some (zeros.set 0 0x8000000080008008) := by
  decide +kernel
/-- V-P2, lanes 0, 1 and 24. -/
theorem test_permute : after (step (inFlight .permute 0 zeros)) (fun t => (t.lanes[0], t.lanes[1], t.lanes[24])) =
    some (0xF1258F7940E1DDE7, 0x84D5CCF933C0478A, 0xEAF1FF7B5CECA249) := by decide +kernel
/-- V-S3's STATUS. -/
theorem test_absorb : after (step (inFlightFor .absorb .sha3x256 (Vector.replicate 18 0))) statusWord = some 0x212 := by
  decide +kernel
/-- R157: block words from RATE_LANES on are ignored. -/
theorem test_absorb_rate : (xorWords ramp (fun _ => 0xFF) Variant.sha3x512.rateLanes).toList.drop 8 =
    [0xF7, 0x9, 0xA, 0xB, 0xC, 0xD, 0xE, 0xF, 0x10, 0x11, 0x12, 0x13, 0x14, 0x15, 0x16, 0x17, 0x18] := by decide +kernel
/-- R22: RHO with one lane unset leaves none known, and completes. -/
theorem test_unset_lane : after (step { inFlight .rho 0 ramp with laneSet := (Vector.replicate 25 true).set 24 false })
    (fun t => (statusWord t, t.laneSet)) = some (0x2, Vector.replicate 25 false) := by decide +kernel
/-- R23, R157: SHA3-512 reads block words 0 to 8 only. -/
theorem test_unset_word : [8, 9].map (fun j : Fin 18 => after (step { inFlightFor .absorb .sha3x512 (Vector.replicate 18 0)
      with blockSet := (Vector.replicate 18 true).set j.val false }) (fun t => t.lanesSet)) = [some false, some true] := by
  decide +kernel
/-- R23, R158: ABSORB_LAST 8 reads block word 0 only, and ABSORB_LAST 9 word 1 too. -/
theorem test_unset_byte : [8, 9].map (fun n => after (step { inFlightFor (.absorbLast n) .sha3x512 (Vector.replicate 18 0)
      with blockSet := (Vector.replicate 18 false).set 0 true }) (fun t => (t.phase, t.lanesSet))) =
    [some (.squeeze, true), some (.squeeze, false)] := by decide +kernel
/-- R22: a host write gives its lane a value. -/
theorem test_write_sets : after (step (writes (.state 24) 5 State.reset)) (fun t => (t.laneSet[24], t.laneSet[23], t.lanes[24]))
    = some (true, false, 5) := by decide +kernel

/-- V-S4: SHA3-256("abc"). -/
theorem test_absorbLast : after (step (inFlightFor (.absorbLast 3) .sha3x256 ((Vector.replicate 18 0).set 0 0x636261)))
    (fun t => (statusWord t, t.lanes[0], t.lanes[1], t.lanes[2], t.lanes[3])) =
    some (0x222, 0xB225E24FA75D983A, 0xBD90D36B2D175C04, 0x5B529D3E6E085F85, 0x3215431145E2BF46) := by decide +kernel
/-- P6's STATUS after SQUEEZE; its permutation is PERMUTE's (R159). -/
theorem test_squeeze : after (step { inFlightFor .squeeze .sha3x512 (Vector.replicate 18 0) with phase := .squeeze })
    statusWord = some 0x422 := by decide +kernel

/-! ## Padding and host programs (L1-4, R91, R153) -/

theorem test_pad_empty : pad [] 0 72 = [0x06] ++ List.replicate 70 0 ++ [0x80] := by decide +kernel
theorem test_pad_full : (pad (List.replicate 135 0x61) 135 136).getLast? = some 0x86 := by decide +kernel
/-- R161 for a message of one byte, with R91's expansions. -/
theorem test_assemble_digest : assemble (digestLines .sha3x512 [0x61]) =
    some [.write 0x1D0 8 0x4, .write 0x1C0 8 0x1, .wait, .write 0x100 8 0x61, .write 0x1C0 8 0x103, .wait] := by
  decide +kernel
theorem test_assemble_loadmsg : Line.expand (.loadmsg [1, 2, 3, 4, 5, 6, 7, 8, 9]) =
    some [.write 0x100 8 0x0807060504030201, .write 0x108 8 0x09] := by decide +kernel
theorem test_readout_lines : (readoutLines .sha3x224).length = 4 ∧ (readoutLines .sha3x512).length = 8 := by decide

/-! ## Witnesses: states and operands that meet the hypotheses of the obligations, clause by clause -/

theorem hostWrites_writes (r : Reg) (v : Word) (s : State) : (writes r v s).hostWrites r v := ⟨rfl, [], rfl⟩
theorem hostReads_reads (r : Reg) (s : State) : (reads r s).hostReads r := ⟨rfl, [], rfl⟩
theorem resetComes_next (s : State) : (next .reset s).resetComes := ⟨rfl, [], rfl⟩
theorem completing_inFlight (i : Instr) (v : BitVec 3) (A : Lanes) : (inFlight i v A).completing i v := ⟨rfl, rfl⟩
theorem completing_inFlightFor (i : Instr) (v : Variant) (B : BlockBuffer) :
    (inFlightFor i v B).completing i v.code := ⟨rfl, rfl⟩

def noBlock : BlockBuffer := Vector.replicate 18 0

theorem witness_DecodeOfEncode : (Instr.absorbLast 255).wf = true ∧ (Instr.absorbLast 0).wf = true ∧
    (Instr.round 31).wf = true ∧ (Instr.iota 31).wf = true ∧ Instr.chi.wf = true := by decide

/-- A word of a row, and words no row matches: an unlisted OPCODE and a reserved bit. -/
theorem witness_DecoderAgreesWithOpcodeTable :
    (∃ r ∈ opcodeTable, (0xFF03 : Word) &&& r.mask = r.value) ∧
    (∀ r ∈ opcodeTable, (0x5 : Word) &&& r.mask ≠ r.value) ∧
    (∀ r ∈ opcodeTable, (0x200009 : Word) &&& r.mask ≠ r.value) := by decide

theorem witness_WorkedEncodings : idle.err = none ∧ idle.busy = false ∧ ∀ w, (writes .cmd w idle).hostWrites .cmd w :=
  ⟨rfl, rfl, fun w => hostWrites_writes .cmd w idle⟩

theorem witness_StepRunsTheDecodedCommand : (writes .cmd 0xFF03 idle).hostWrites .cmd 0xFF03 ∧
    decode 0xFF03 = .ok (.absorbLast 255) ∧ (inFlight (.round 23) 0 zeros).completing (.round 23) 0 :=
  ⟨hostWrites_writes _ _ _, by decide, completing_inFlight _ _ _⟩

/-- A state for each outcome of acceptance, at the boundaries of LEN and IR. -/
theorem witness_CmdWriteFollows : (∀ w s, (writes .cmd w s).hostWrites .cmd w) ∧
    { idle with err := some .busError }.err ≠ none ∧
    refusalOf 0x170009 idle = none ∧ refusalOf 0x180009 idle = some .badArgument ∧
    refusalOf 0x8703 (absorbing .sha3x256) = none ∧ refusalOf 0x8803 (absorbing .sha3x256) = some .badArgument ∧
    refusalOf 0x2 idle = some .badPhase ∧ refusalOf 0x4 (absorbing .sha3x256) = some .badPhase ∧
    refusalOf 0x1 idle = some .badConfig ∧ refusalOf 0x0 (inFlight .nop 0 zeros) = some .busy ∧
    refusalOf 0x105 idle = some .illegalOpcode ∧ refusalOf 0x200009 idle = some .reservedField :=
  ⟨fun w s => hostWrites_writes .cmd w s, by decide, by decide, by decide, by decide +kernel, by decide +kernel,
    by decide, by decide +kernel, by decide, by decide, by decide, by decide⟩

theorem inv_writes (w : Word) : (writes .cmd w (absorbing .sha3x256)).Inv where
  variantOfPhase := ⟨fun h => (by cases h), fun h => (by cases h)⟩
  cmdLegal := ⟨.init, test_decode_init⟩
  cmdInFlight := fun f h => by cases h
  admitted := fun f h => by cases h
  notDoneInFlight := fun h => by cases h

theorem inv_inFlight (a : Input) : (next a (inFlight (.round 23) 0 zeros)).Inv where
  variantOfPhase := ⟨fun _ => rfl, fun _ => rfl⟩
  cmdLegal := ⟨.round 23, by change decode (encode (.round 23)) = _; decide⟩
  cmdInFlight := fun f h => by cases h; change decode (encode (.round 23)) = _; decide
  admitted := fun f h => by cases h; exact (by decide : 23 < 24)
  notDoneInFlight := fun _ => rfl

/-- An acceptance at the boundary of LEN; host moves while a command is in flight, a refused STATE write and a CONFIG write
among them; the core's move. -/
theorem witness_AcceptedCommandCompletes : ((writes .cmd 0x8703 (absorbing .sha3x256)).Inv ∧
      (writes .cmd 0x8703 (absorbing .sha3x256)).hostWrites .cmd 0x8703 ∧
      (writes .cmd 0x8703 (absorbing .sha3x256)).err = none ∧
      refusalOf 0x8703 (writes .cmd 0x8703 (absorbing .sha3x256)) = none) ∧
    (∀ r, (writes r 1 (inFlight (.round 23) 0 zeros)).Inv ∧ (writes r 1 (inFlight (.round 23) 0 zeros)).busy = true ∧
      (writes r 1 (inFlight (.round 23) 0 zeros)).mover = .host ∧
      ¬(writes r 1 (inFlight (.round 23) 0 zeros)).resetComes) ∧
    { next .wait (inFlight (.round 23) 0 zeros) with turns := [] }.mover = .core ∧
    { next .wait (inFlight (.round 23) 0 zeros) with turns := [] }.Inv :=
  ⟨⟨inv_writes _, hostWrites_writes _ _ _, rfl, by decide +kernel⟩,
    fun _ => ⟨inv_inFlight _, rfl, rfl, fun ⟨_, _, h⟩ => by cases h⟩, rfl,
    ⟨(inv_inFlight .wait).1, (inv_inFlight .wait).2, (inv_inFlight .wait).3, (inv_inFlight .wait).4,
      (inv_inFlight .wait).5⟩⟩

theorem witness_ErrorsAreCleared :
    ((writes .status 4 { idle with err := some .busy }).hostWrites .status 4 ∧ (4 : Word).getLsbD 2 = true) ∧
    (∃ t, step (writes .status 4 { idle with err := some .busy }) = .next t ∧ t.err = none) ∧
    (∃ t, step (next .reset { idle with err := some .busy }) = .next t ∧ t.err = none) :=
  ⟨⟨hostWrites_writes _ _ _, by decide⟩, ⟨_, rfl, rfl⟩, ⟨_, rfl, rfl⟩⟩

theorem witness_FirstErrorIsKept :
    (∃ t, step (writes (.state 0) 5 { inFlight .nop 0 zeros with err := some .busError }) = .next t ∧
      t.err = some .busError) ∧
    { inFlight .nop 0 zeros with err := some .busError }.err = some .busError := ⟨⟨_, rfl, rfl⟩, rfl⟩

/-- Offsets at both ends of each unmapped range, a misaligned one, a narrow access; as a read and as a write. -/
theorem witness_BadAccess :
    (∀ o ∈ ([0x0C8, 0x0F8, 0x190, 0x1B8, 0x1E8, 0x1F8, 0x2C0, 0x3F8, 0x1C4, 0x3FF] : List (Fin 0x400)),
      ((8 : Nat) ≠ 8 ∨ o.val % 8 ≠ 0 ∨ (0x0C8 ≤ o.val ∧ o.val < 0x100) ∨ (0x190 ≤ o.val ∧ o.val < 0x1C0) ∨
        (0x1E8 ≤ o.val ∧ o.val < 0x200) ∨ 0x2C0 ≤ o.val) ∧
      (next (.read o 8) idle).program = [.read o 8] ∧ (next (.write o 8 1) idle).program = [.write o 8 1]) ∧
    (next (.read 0 4) idle).mover = .host ∧ (4 : Nat) ≠ 8 := by decide +kernel

theorem witness_Reads : (∀ r, (reads r idle).hostReads r) ∧ (∀ r, (reads r idle).busy = false) ∧
    (reads (.block 17) (inFlight .nop 0 zeros)).hostReads (.block 17) :=
  ⟨fun r => hostReads_reads r idle, fun _ => rfl, hostReads_reads _ _⟩

theorem witness_StateReadWhileBusy : ∀ i : Fin 25, (reads (.state i) (inFlight .nop 0 zeros)).hostReads (.state i) ∧
    (reads (.state i) (inFlight .nop 0 zeros)).busy = true := fun _ => ⟨hostReads_reads _ _, rfl⟩

theorem witness_StateAndBlockWrites : (∀ r s, (writes r 7 s).hostWrites r 7) ∧ (∀ r, (writes r 7 idle).busy = false) ∧
    (∀ r, (writes r 7 (inFlight .nop 0 zeros)).busy = true) :=
  ⟨fun r s => hostWrites_writes r 7 s, fun _ => rfl, fun _ => rfl⟩

theorem witness_ReadOnlyRegisters : (writes .param 5 idle).hostWrites .param 5 ∧
    (writes .info 5 idle).hostWrites .info 5 ∧ (writes (.rc 23) 5 idle).hostWrites (.rc 23) 5 :=
  ⟨hostWrites_writes _ _ _, hostWrites_writes _ _ _, hostWrites_writes _ _ _⟩

theorem witness_StatusWrite : (writes .status 6 idle).hostWrites .status 6 := hostWrites_writes _ _ _
theorem witness_ConfigWrite : (writes .config 0xFFFF idle).hostWrites .config 0xFFFF := hostWrites_writes _ _ _
theorem witness_ResetEvent : (next .reset (inFlight .permute 0 ramp)).resetComes := resetComes_next _

theorem witness_StepKeepsTheInvariant : ∃ t, (writes .cmd 0x2 (absorbing .sha3x256)).Inv ∧
    step (writes .cmd 0x2 (absorbing .sha3x256)) = .next t ∧ t.busy = true := ⟨_, inv_writes _, rfl, by decide +kernel⟩
theorem witness_StepNeverStops : (writes .cmd 0x2 (absorbing .sha3x256)).Inv := inv_writes _

/-- Each way PHASE changes. -/
theorem witness_PhaseChanges :
    (∃ t, step (inFlight .init 1 zeros) = .next t ∧ t.phase ≠ (inFlight .init 1 zeros).phase) ∧
    (∃ t, step (inFlightFor (.absorbLast 0) .sha3x512 noBlock) = .next t ∧
      t.phase ≠ (inFlightFor (.absorbLast 0) .sha3x512 noBlock).phase) ∧
    (∃ t, step (next .reset (absorbing .sha3x224)) = .next t ∧ t.phase ≠ (next .reset (absorbing .sha3x224)).phase) :=
  ⟨⟨_, rfl, by decide⟩, ⟨_, (step_of_completing (completing_inFlightFor _ _ _)).trans
    (exec_of_completing (completing_inFlightFor _ _ _) (execute_absorbLast (v := .sha3x512) _ rfl (by decide))), by decide⟩,
    ⟨_, step_of_resetComes (resetComes_next _), by decide⟩⟩

theorem witness_ActiveVariantChanges :
    (∃ t, step (inFlight .init 4 zeros) = .next t ∧ t.activeVariant ≠ (inFlight .init 4 zeros).activeVariant) ∧
    (∃ t, step (next .reset (absorbing .sha3x224)) = .next t ∧
      t.activeVariant ≠ (next .reset (absorbing .sha3x224)).activeVariant) :=
  ⟨⟨_, rfl, by decide⟩, ⟨_, step_of_resetComes (resetComes_next _), by decide⟩⟩

theorem witness_LanesChange :
    (∃ t, step (writes (.state 24) 1 idle) = .next t ∧ t.lanes ≠ (writes (.state 24) 1 idle).lanes) ∧
    (∃ t, step (inFlight (.iota 0) 0 zeros) = .next t ∧ t.lanes ≠ (inFlight (.iota 0) 0 zeros).lanes) :=
  ⟨⟨_, rfl, by decide +kernel⟩, ⟨_, rfl, by decide +kernel⟩⟩
theorem witness_BlockChanges :
    ∃ t, step (writes (.block 17) 1 idle) = .next t ∧ t.block ≠ (writes (.block 17) 1 idle).block :=
  ⟨_, rfl, by decide +kernel⟩
theorem witness_CmdChanges : ∃ t, step (writes .cmd 0x8 idle) = .next t ∧ t.cmd ≠ (writes .cmd 0x8 idle).cmd :=
  ⟨_, rfl, by decide +kernel⟩
theorem witness_ConfigChanges :
    ∃ t, step (writes .config 1 idle) = .next t ∧ configWord t ≠ configWord (writes .config 1 idle) :=
  ⟨_, rfl, by decide +kernel⟩
theorem witness_BusyChanges :
    (∃ t, step (writes .cmd 0x8 idle) = .next t ∧ (writes .cmd 0x8 idle).busy = false ∧ t.busy = true) ∧
    (∃ t, step (inFlight .nop 0 zeros) = .next t ∧ (inFlight .nop 0 zeros).busy = true ∧ t.busy = false) :=
  ⟨⟨_, rfl, rfl, by decide +kernel⟩, ⟨_, rfl, rfl, rfl⟩⟩
/-- A completion, and one that draws. -/
theorem witness_CompletionFrame : ((inFlight .init 1 zeros).completing .init 1 ∧
      ∃ t, exec .init (inFlight .init 1 zeros) = .next t) ∧
    ({ inFlight .chi 0 ramp with laneSet := Vector.replicate 25 false }.completing .chi 0 ∧
      ∃ t, exec .chi { inFlight .chi 0 ramp with laneSet := Vector.replicate 25 false } = .next t ∧ t.draws ≠ 0) :=
  ⟨⟨completing_inFlight _ _ _, _, rfl⟩, ⟨rfl, rfl⟩, _, exec_of_completing ⟨rfl, rfl⟩ (execute_chi _ _), by decide +kernel⟩

/-- Two states apart in a lane, a block word and the data of the last read. -/
theorem witness_ControlDoesNotDepend :
    { writes (.state 24) 1 idle with response := some (.readOk 1) }.sameButData
      { writes (.state 24) 1 (idleWith ramp (Vector.replicate 18 7)) with response := some (.readOk 2) } ∧
    ∃ t, step { writes (.state 24) 1 idle with response := some (.readOk 1) } = .next t :=
  ⟨⟨rfl, .inr ⟨1, 2, rfl, rfl⟩⟩, _, rfl⟩

theorem allLanesSet_inFlight (i : Instr) (v : BitVec 3) (A : Lanes) : (inFlight i v A).AllLanesSet := by
  intro k
  change (Vector.replicate 25 true)[k] = true
  simp

theorem wordsSet_inFlightFor (i : Instr) (a : Variant) (B : BlockBuffer) (n : Nat) :
    (inFlightFor i a B).WordsSetBelow n := by
  intro j _
  change (Vector.replicate 18 true)[j] = true
  simp

/-- NOP, SQUEEZE, PERMUTE, THETA, RHO, PI and CHI complete from any such state. -/
theorem witness_PlainCompletions : ∀ i ∈ [Instr.nop, .squeeze, .permute, .theta, .rho, .pi, .chi],
    (inFlight i 0 ramp).completing i 0 ∧ (inFlight i 0 ramp).AllLanesSet :=
  fun i _ => ⟨completing_inFlight i 0 ramp, allLanesSet_inFlight _ _ _⟩
theorem witness_InitCompletes : ∀ v ∈ ([1, 2, 3, 4] : List (BitVec 3)),
    (inFlight .init v ramp).completing .init v ∧ v.toNat ∈ [1, 2, 3, 4] :=
  fun v hv => ⟨completing_inFlight _ _ _, by revert v; decide⟩
theorem witness_AbsorbCompletes : ∀ a : Variant, (inFlightFor .absorb a noBlock).completing .absorb a.code ∧
    (inFlightFor .absorb a noBlock).activeVariant = some a ∧
    (a, a.rateLanes) ∈ [(.sha3x224, 18), (.sha3x256, 17), (.sha3x384, 13), (.sha3x512, 9)] ∧
    (inFlightFor .absorb a noBlock).AllLanesSet ∧ (inFlightFor .absorb a noBlock).WordsSetBelow a.rateLanes :=
  fun a => ⟨completing_inFlightFor _ _ _, rfl, by cases a <;> decide, allLanesSet_inFlight .absorb 0 zeros,
    wordsSet_inFlightFor _ _ _ _⟩
/-- LEN at 0 and at RATE_BYTES − 1, for every variant. -/
theorem witness_AbsorbLastCompletes : ∀ a : Variant, ∀ n ∈ [0, a.rateBytes - 1],
    (inFlightFor (.absorbLast n) a noBlock).completing (.absorbLast n) a.code ∧
    (inFlightFor (.absorbLast n) a noBlock).activeVariant = some a ∧
    (a, a.rateBytes) ∈ [(.sha3x224, 144), (.sha3x256, 136), (.sha3x384, 104), (.sha3x512, 72)] ∧ n < a.rateBytes ∧
    (inFlightFor (.absorbLast n) a noBlock).AllLanesSet ∧
    (inFlightFor (.absorbLast n) a noBlock).WordsSetBelow ((n + 7) / 8) :=
  fun a n hn => ⟨completing_inFlightFor _ _ _, rfl, by cases a <;> decide, by revert n; cases a <;> decide,
    allLanesSet_inFlight .absorb 0 zeros, wordsSet_inFlightFor _ _ _ _⟩
theorem witness_RoundAndIotaComplete : ∀ ir : Fin 24,
    (inFlight (.round ir.val) 0 ramp).completing (.round ir.val) 0 ∧ (inFlight (.round ir.val) 0 ramp).AllLanesSet ∧
    (inFlight (.iota ir.val) 0 ramp).completing (.iota ir.val) 0 ∧ (inFlight (.iota ir.val) 0 ramp).AllLanesSet :=
  fun _ => ⟨completing_inFlight _ _ _, allLanesSet_inFlight _ _ _, completing_inFlight _ _ _, allLanesSet_inFlight _ _ _⟩

/-- Each of the four stops, at the boundary. -/
theorem witness_CompletionsStop : (inFlight .init 5 zeros).completing .init 5 ∧ (5 : BitVec 3).toNat ∉ [1, 2, 3, 4] ∧
    (inFlight .absorb 0 zeros).completing .absorb 0 ∧ (inFlight .absorb 0 zeros).activeVariant = none ∧
    (inFlight (.absorbLast 0) 0 zeros).completing (.absorbLast 0) 0 ∧
    (inFlightFor (.absorbLast 72) .sha3x512 noBlock).completing (.absorbLast 72) 4 ∧
    (inFlight (.round 24) 0 zeros).completing (.round 24) 0 ∧ (inFlight (.iota 31) 0 zeros).completing (.iota 31) 0 :=
  ⟨completing_inFlight _ _ _, by decide, completing_inFlight _ _ _, rfl, completing_inFlight _ _ _,
    completing_inFlightFor _ _ _, completing_inFlight _ _ _, completing_inFlight _ _ _⟩

/-- The state in which a lane command has completed from lanes that all have a value. -/
def completed (i : Instr) (A B : Lanes) : State :=
  { inFlight i 0 A with lanes := B, inflight := none, done := true, turns := [] }

theorem exec_inFlight {i : Instr} {A B : Lanes} (h : execute i ⟨i, 0⟩ (inFlight i 0 A) =
    .next ((inFlight i 0 A).replaceLanes (inFlight i 0 A).lanesSet B)) :
    exec i (inFlight i 0 A) = .next (completed i A B) := by
  rw [(lanesSet_iff _).2 (allLanesSet_inFlight i 0 A)] at h
  exact exec_of_completing (completing_inFlight _ _ _) h

theorem witness_RoundEqualsFive (ir : Fin 24) : ∃ a₁ a₂ a₃ a₄ a₅ b₁ b₂ b₃ b₄ b₅ s : State, a₁.AllLanesSet ∧
    a₁.completing .theta 0 ∧ exec .theta a₁ = .next b₁ ∧
    a₂.completing .rho 0 ∧ a₂.continues b₁ ∧ exec .rho a₂ = .next b₂ ∧
    a₃.completing .pi 0 ∧ a₃.continues b₂ ∧ exec .pi a₃ = .next b₃ ∧
    a₄.completing .chi 0 ∧ a₄.continues b₃ ∧ exec .chi a₄ = .next b₄ ∧
    a₅.completing (.iota ir.val) 0 ∧ a₅.continues b₄ ∧ exec (.iota ir.val) a₅ = .next b₅ ∧
    s.completing (.round ir.val) 0 ∧ s.continues a₁ :=
  ⟨inFlight .theta 0 ramp, inFlight .rho 0 (theta ramp), inFlight .pi 0 (rho (theta ramp)),
    inFlight .chi 0 (pi (rho (theta ramp))), inFlight (.iota ir.val) 0 (chi (pi (rho (theta ramp)))), _, _, _, _, _,
    inFlight (.round ir.val) 0 ramp, allLanesSet_inFlight _ _ _, completing_inFlight _ _ _,
    exec_inFlight (execute_theta _ _), completing_inFlight _ _ _, ⟨rfl, rfl⟩,
    exec_inFlight (execute_rho _ _), completing_inFlight _ _ _, ⟨rfl, rfl⟩,
    exec_inFlight (execute_pi _ _), completing_inFlight _ _ _, ⟨rfl, rfl⟩,
    exec_inFlight (execute_chi _ _), completing_inFlight _ _ _, ⟨rfl, rfl⟩,
    exec_inFlight (execute_iota _ _ ir), completing_inFlight _ _ _, ⟨rfl, rfl⟩⟩

/-- The lanes before round `k`, from the ramp. -/
def lanesBefore : Nat → Lanes
  | 0 => ramp
  | k + 1 => keccakRound (lanesBefore k) ⟨k % 24, Nat.mod_lt _ (by decide)⟩

theorem witness_PermuteEqualsTheRounds : ∃ (a b : Fin 24 → State) (s : State), (a 0).AllLanesSet ∧
    (∀ ir : Fin 24, (a ir).completing (.round ir.val) 0 ∧ exec (.round ir.val) (a ir) = .next (b ir)) ∧
    (∀ ir jr : Fin 24, jr.val = ir.val + 1 → (a jr).continues (b ir)) ∧
    s.completing .permute 0 ∧ s.continues (a 0) := by
  refine ⟨fun ir => inFlight (.round ir.val) 0 (lanesBefore ir.val),
    fun ir => completed (.round ir.val) (lanesBefore ir.val) (keccakRound (lanesBefore ir.val) ir),
    inFlight .permute 0 ramp, allLanesSet_inFlight _ _ _, fun ir => ⟨completing_inFlight _ _ _,
      exec_inFlight (execute_round _ _ ir)⟩, fun ir jr h => ⟨?_, rfl⟩, completing_inFlight _ _ _, ⟨rfl, rfl⟩⟩
  change lanesBefore jr.val = keccakRound (lanesBefore ir.val) ir
  rw [h, lanesBefore]
  congr 1
  exact Fin.ext (Nat.mod_eq_of_lt ir.isLt)

/-- A lane unset; the last rate word unset; the word of the last of n bytes unset, and that of the first byte past them,
which is not read. -/
theorem witness_UnsetOperands :
    (∃ k : Fin 25, { inFlight .chi 0 ramp with laneSet := (Vector.replicate 25 true).set 24 false }.laneSet[k] = false) ∧
    (∃ j : Fin 18, j.val < 9 ∧
      { inFlightFor .absorb .sha3x512 noBlock with blockSet := (Vector.replicate 18 true).set 8 false }.blockSet[j] = false) ∧
    (∃ j : Fin 18, 8 * j.val < 71 ∧ (71 : Nat) < 72 ∧ { inFlightFor (.absorbLast 71) .sha3x512 noBlock with
      blockSet := (Vector.replicate 18 true).set 8 false }.blockSet[j] = false) ∧
    ¬ (8 * 8 < 64) := ⟨⟨24, rfl⟩, ⟨8, by decide, rfl⟩, ⟨8, by decide, by decide, rfl⟩, by decide⟩

/-- A lane and a word gain a value; a lane loses it in a completion with an unset operand, and by reset. -/
theorem witness_UnspecifiedUntilSet :
    (∃ t, step (writes (.state 24) 1 State.reset) = .next t ∧
      (writes (.state 24) 1 State.reset).laneSet[24] = false ∧ t.laneSet[24] = true) ∧
    (∃ t, step (writes (.block 17) 1 State.reset) = .next t ∧
      (writes (.block 17) 1 State.reset).blockSet[17] = false ∧ t.blockSet[17] = true) ∧
    (∃ t, step { inFlight .pi 0 ramp with laneSet := (Vector.replicate 25 true).set 24 false } = .next t ∧
      ((Vector.replicate 25 true).set 24 false)[0] = true ∧ t.laneSet[0] = false) ∧
    (∃ t, step (next .reset idle) = .next t ∧ idle.laneSet[0] = true ∧ t.laneSet[0] = false ∧
      idle.blockSet[0] = true ∧ t.blockSet[0] = false) :=
  ⟨⟨_, rfl, rfl, by decide +kernel⟩, ⟨_, rfl, rfl, by decide +kernel⟩, ⟨_, (step_of_completing ⟨rfl, rfl⟩).trans
    (exec_of_completing ⟨rfl, rfl⟩ (execute_pi _ _)), by decide, by decide +kernel⟩,
    ⟨_, step_of_resetComes (resetComes_next _), rfl, by decide +kernel, rfl, by decide +kernel⟩⟩

theorem witness_PaddingCornerCases : (([] : List Byte).length + 2 ≤ Variant.sha3x512.rateBytes) ∧
    ((List.replicate 70 (0x61 : Byte)).length + 2 ≤ Variant.sha3x512.rateBytes) ∧
    ((List.replicate 71 (0x61 : Byte)).length + 1 = Variant.sha3x512.rateBytes) := by decide
theorem witness_DigestReadout : (Variant.sha3x224, 28) ∈ [(Variant.sha3x224, 28), (.sha3x256, 32), (.sha3x384, 48),
    (.sha3x512, 64)] ∧ 27 / 8 < 25 ∧ 27 < 28 := by decide
theorem witness_WaitPollsStatus : (next .wait idle).mover = .host ∧ (next .wait idle).program = .wait :: [] ∧
    (next .wait idle).busy = false ∧ (next .wait (inFlight .nop 0 zeros)).busy = true := ⟨rfl, rfl, rfl, rfl⟩
theorem witness_Loadmsg : (List.replicate 144 (0x61 : Byte)).length ≤ 144 ∧ ([] : List Byte).length ≤ 144 := by decide +kernel

end Sys2Proof.Tests
end

section
/-! PROOF. A STATUS write, in whole (10_state R31). -/

namespace Sys2Proof.Machine

/-- Bit 1 decides DONE, bit 2 decides ERR with ERR_CODE, each alone, and no other field moves (R31). -/
theorem writeStatus_eq (v : Word) (s : State) :
    writeStatus v s = { s with
      done := s.done && !v.getLsbD 1
      err := if v.getLsbD 2 then none else s.err } := by
  unfold writeStatus
  cases v.getLsbD 1 with
  | false => cases v.getLsbD 2 <;> simp [clearError]
  | true => cases v.getLsbD 2 <;> simp [clearError]

/-- Settles O15: the step is the register write, which BUSY does not enter, and `writeStatus_eq` says what it stores. -/
theorem statusWriteClearsByBits : Obligations.StatusWriteClearsByBits := by
  intro s v hw
  calc step s = writeReg exec .status v s := step_of_hostWrites hw
    _ = .next ((writeStatus v s).endHostTurn .writeOk) := rfl
    _ = _ := by rw [writeStatus_eq]; rfl

end Sys2Proof.Machine
end

section
/-! PROOF. A write of any word to CMD (30_encoding R86, R87). -/

namespace Sys2Proof.Machine

/-- What the checks after BUSY decide about a word (R86): those of the decoder, then those of the command it names. -/
def wordVerdict (w : Word) (s : State) : Except CmdError Instr :=
  match decode w with
  | .ok i => verdict i s
  | .error e => .error (DecodeError.cmdError e)

/-- A word that names a command and a word that names none go through the same acceptance procedure. -/
theorem step_of_cmdWrite {s : State} {w : Word} (h : s.hostWrites .cmd w) :
    step s = .next ((accept (wordVerdict w s) s).endHostTurn .writeOk) := by
  have hwrite : step s = writeCmd exec w s := step_of_hostWrites h
  rw [hwrite]
  unfold writeCmd wordVerdict
  cases decode w with
  | ok i => exact exec_of_host i h.1
  | error e => rfl

theorem refusalOf_of_busy (w : Word) {s : State} (hb : s.busy = true) : refusalOf w s = some .busy := by
  simp [refusalOf, hb]

/-- With BUSY = 0, the checks on the word as a number fail where the decoder or the command refuses. -/
theorem refusalOf_of_wordVerdict_error {w : Word} {s : State} {e : CmdError} (hb : s.busy = false)
    (hv : wordVerdict w s = .error e) : refusalOf w s = some e := by
  cases hd : decode w with
  | ok i =>
    have hi : verdict i s = .error e := by simpa only [wordVerdict, hd] using hv
    rw [refusalOf_of_decode_ok hb hd, hi]
  | error d =>
    have he : DecodeError.cmdError d = e := by simpa only [wordVerdict, hd, Except.error.injEq] using hv
    rw [refusalOf_of_decode_error hb hd, he]

/-- A word with a favourable verdict names the command, and that command's own checks pass. -/
theorem decode_of_wordVerdict_ok {w : Word} {s : State} {i : Instr} (hv : wordVerdict w s = .ok i) :
    decode w = .ok i ∧ verdict i s = .ok i := by
  cases hd : decode w with
  | ok j =>
    have hj : verdict j s = .ok i := by simpa only [wordVerdict, hd] using hv
    cases verdict_ok hj
    exact ⟨rfl, hj⟩
  | error d => simp [wordVerdict, hd] at hv

/-- With BUSY = 0, the checks on the word as a number pass where the decoder and the command admit. -/
theorem refusalOf_of_wordVerdict_ok {w : Word} {s : State} {i : Instr} (hb : s.busy = false)
    (hv : wordVerdict w s = .ok i) : refusalOf w s = none := by
  obtain ⟨hd, hi⟩ := decode_of_wordVerdict_ok hv
  rw [refusalOf_of_decode_ok hb hd, hi]

theorem accept_of_err (v : Except CmdError Instr) {s : State} (he : s.err ≠ none) : accept v s = s := by
  simp [accept, Option.isSome_iff_ne_none.2 he]

theorem raiseError_of_clear (e : CmdError) {s : State} (he : s.err = none) : raiseError e s = { s with err := some e } := by
  simp [raiseError, he]

/-- The first failing check of R86 is the one whose code acceptance records. -/
theorem accept_of_refusalOf_some {s : State} {w : Word} {e : CmdError} (he : s.err = none)
    (hr : refusalOf w s = some e) : accept (wordVerdict w s) s = { s with err := some e } := by
  rw [← raiseError_of_clear e he]
  cases hb : s.busy with
  | true =>
    rw [refusalOf_of_busy w hb] at hr
    cases hr
    simp [accept, he, hb]
  | false =>
    cases hv : wordVerdict w s with
    | error e' =>
      cases hr.symm.trans (refusalOf_of_wordVerdict_error hb hv)
      simp [accept, he, hb]
    | ok i => cases hr.symm.trans (refusalOf_of_wordVerdict_ok hb hv)

/-- A word that passes every check of R86 names a command, and acceptance starts it. -/
theorem accept_of_refusalOf_none {s : State} {w : Word} (he : s.err = none) (hr : refusalOf w s = none) :
    ∃ i, decode w = .ok i ∧ accept (wordVerdict w s) s = startCommand i s := by
  cases hb : s.busy with
  | true => cases hr.symm.trans (refusalOf_of_busy w hb)
  | false =>
    cases hv : wordVerdict w s with
    | error e => cases hr.symm.trans (refusalOf_of_wordVerdict_error hb hv)
    | ok i => exact ⟨i, (decode_of_wordVerdict_ok hv).1, by simp [accept, he, hb]⟩

/-- A word that names a command names it by the opcode map, from the word's fields as numbers (R82). -/
theorem opcodeMap_of_decode {w : Word} {i : Instr} (h : decode w = .ok i) :
    opcodeMap (w.toNat % 256) (w.toNat / 256 % 256) (w.toNat / 65536 % 32) = some i := by
  rw [← opcodeField_eq, ← lenField_eq, ← irField_eq]
  unfold decode at h
  split at h
  · cases h
  next hj =>
    split at h
    · cases h
      exact hj
    · cases h

/-- Settles O5: the step is the acceptance of the word's verdict, which agrees with the checks of R86 on the word as a
number; a started command's own word is the word written. The premise on the phase is not needed: with no active variant
both sides refuse ABSORB_LAST. -/
theorem cmdWriteFollowsTheAcceptanceProcedure : Obligations.CmdWriteFollowsTheAcceptanceProcedure := by
  intro s w hw _
  have hstep := step_of_cmdWrite hw
  refine ⟨⟨.writeOk, fun he => ?_, fun he e hr => ?_⟩, fun he hr => ?_⟩
  · rw [hstep, accept_of_err _ he]
    rfl
  · rw [hstep, accept_of_refusalOf_some he hr]
    rfl
  · obtain ⟨i, hd, ha⟩ := accept_of_refusalOf_none he hr
    refine ⟨i, ?_, ?_⟩
    · simpa using opcodeMap_cases (opcodeMap_of_decode hd)
    · rw [hstep, ha, ← (encode_of_decode hd).1]
      rfl

end Sys2Proof.Machine
end

section
/-! PROOF. The completions of THETA, PI, CHI and IOTA (40_round R112, R117, R118, R122). -/

namespace Sys2Proof.Machine

/-- A command that reads the 25 lanes and nothing else completes with its result when every lane has a value (R22). -/
theorem exec_of_allLanesSet {s : State} {i : Instr} {v : BitVec 3} {A : Lanes} (h : s.completing i v)
    (hs : s.AllLanesSet) (he : execute i ⟨i, v⟩ s = .next (s.replaceLanes s.lanesSet A)) :
    exec i s = .next { s with lanes := A, inflight := none, done := true, turns := s.turns.tail } :=
  exec_of_set h he ((lanesSet_iff s).2 hs)

/-- IOTA leaves every lane but (0,0) as it was (R122). -/
theorem grid_iota_of_ne (A : Lanes) (ir : Fin 24) {x y : Fin 5} (h : ¬(x = 0 ∧ y = 0)) :
    grid (iota A ir) x y = grid A x y :=
  (grid_iota A ir x y).trans (if_neg h)

/-- Settles O41: the new lanes are `theta` of the old ones, whose every lane `grid_theta` gives from the column parities
of the old lanes. -/
theorem thetaCompletes : Obligations.ThetaCompletes := by
  intro s v hc hs
  refine ⟨theta s.lanes, exec_of_allLanesSet hc hs (execute_theta _ s), fun x y => ?_⟩
  exact grid_theta s.lanes x y

/-- Settles O43: the new lanes are `pi` of the old ones, whole lanes moved as `grid_pi` says. -/
theorem piCompletes : Obligations.PiCompletes := by
  intro s v hc hs
  refine ⟨pi s.lanes, exec_of_allLanesSet hc hs (execute_pi _ s), fun x y => ?_⟩
  exact grid_pi s.lanes x y

/-- Settles O44: the new lanes are `chi` of the old ones, whose every lane `grid_chi` gives from its row of the old
lanes. -/
theorem chiCompletes : Obligations.ChiCompletes := by
  intro s v hc hs
  refine ⟨chi s.lanes, exec_of_allLanesSet hc hs (execute_chi _ s), fun x y => ?_⟩
  exact grid_chi s.lanes x y

/-- Settles O45: the new lanes are `iota` of the old ones at IR; `grid_iota` gives lane (0,0), and every other lane
stays. -/
theorem iotaCompletes : Obligations.IotaCompletes := by
  intro s v ir hc hs
  refine ⟨iota s.lanes ir, exec_of_allLanesSet hc hs (execute_iota _ s ir), ?_, fun x y hxy => ?_⟩
  · exact (grid_iota s.lanes ir 0 0).trans (if_pos ⟨rfl, rfl⟩)
  · exact grid_iota_of_ne s.lanes ir hxy

end Sys2Proof.Machine
end

section
/-! PROOF. The completion of ROUND (41_permutation R140). -/

namespace Sys2Proof.Machine

/-- One round is the five step functions in R140's order. -/
theorem keccakRound_eq_iota_chi_pi_rho_theta (A : Lanes) (ir : Fin 24) :
    keccakRound A ir = iota (chi (pi (rho (theta A)))) ir := rfl

/-- Settles O40: ROUND's execution applies one round to the old lanes, which is the five step functions in order. -/
theorem roundCompletes : Obligations.RoundCompletes := by
  intro s v ir hc hs
  rw [← keccakRound_eq_iota_chi_pi_rho_theta]
  exact exec_of_allLanesSet hc hs (execute_round _ s ir)

end Sys2Proof.Machine
end

section
/-! PROOF. The completion of ABSORB_LAST (42_sponge R152, R154, R158). -/

namespace Sys2Proof.Machine

/-- The rate in bytes is R150's table. -/
theorem rateBytes_of_mem {a : Variant} {rate : Nat}
    (h : (a, rate) ∈ [(Variant.sha3x224, 144), (.sha3x256, 136), (.sha3x384, 104), (.sha3x512, 72)]) :
    a.rateBytes = rate := by
  simp only [List.mem_cons, Prod.mk.injEq, List.not_mem_nil, or_false] at h
  rcases h with ⟨rfl, rfl⟩ | ⟨rfl, rfl⟩ | ⟨rfl, rfl⟩ | ⟨rfl, rfl⟩ <;> rfl

/-- Every rate is a whole number of lanes (R150). -/
theorem eight_dvd_rateBytes (a : Variant) : 8 ∣ a.rateBytes := by
  cases a <;> decide

/-- A byte is in the rate exactly when its lane is, so no lane is partly XORed (R154). -/
theorem div_eight_lt_rateLanes_iff (a : Variant) (k : Nat) : k / 8 < a.rateBytes / 8 ↔ k < a.rateBytes := by
  have h8 := eight_dvd_rateBytes a
  omega

/-- The padded byte when the message is the first `n` bytes of the buffer (R152, R158). -/
theorem padByte_blockBytes (B : BlockBuffer) (n rate k : Nat) :
    padByte (blockBytes B n) n rate k =
      (if k < n then blockByte B k else 0) ||| (if k = n then 0x06 else 0) ||| (if k = rate - 1 then 0x80 else 0) := by
  have hmsg : (if k < n then (blockBytes B n).getD k 0 else 0) = if k < n then blockByte B k else 0 :=
    ite_congr rfl (getD_blockBytes B n k) fun _ => rfl
  rw [padByte, hmsg]

/-- The state byte after a padded block is XORed in: a rate byte takes its padded byte, a capacity byte stays (R154). -/
theorem stateByte_xorIn_pad (a : Variant) (A : Lanes) (msg : List Byte) (n k : Nat) (hk : k < 200) :
    stateByte (xorIn A (pad msg n a.rateBytes) (a.rateBytes / 8)) k =
      stateByte A k ^^^ if k < a.rateBytes then padByte msg n a.rateBytes k else 0 := by
  rw [stateByte_xorIn A _ _ k hk, getD_pad]
  by_cases hr : k < a.rateBytes
  · rw [if_pos ((div_eight_lt_rateLanes_iff a k).2 hr)]
  · rw [if_neg (mt (div_eight_lt_rateLanes_iff a k).1 hr), if_neg hr]
    exact BitVec.xor_zero.symm

/-- ABSORB_LAST's completion when all it reads has a value (R158). -/
theorem exec_absorbLast_of_set {s : State} {v : BitVec 3} {a : Variant} {n : Nat} (h : s.completing (.absorbLast n) v)
    (ha : s.activeVariant = some a) (hn : n < a.rateBytes) (hl : s.AllLanesSet)
    (hw : s.WordsSetBelow ((n + 7) / 8)) :
    exec (.absorbLast n) s = .next { s with
      lanes := absorbFinal a n s.block s.lanes, phase := .squeeze, inflight := none, done := true,
      turns := s.turns.tail } := by
  have he := execute_absorbLast ⟨.absorbLast n, v⟩ ha hn
  rw [operandsSet_of hl hw] at he
  exact exec_of_completing h he

/-- Settles O37: the lanes that are permuted are the old ones with the padded block XORed in, whose every byte
`stateByte_xorIn_pad` and `padByte_blockBytes` give. -/
theorem absorbLastCompletes : Obligations.AbsorbLastCompletes := by
  intro s v a rate n hc ha hmem hn hl hw
  obtain rfl := rateBytes_of_mem hmem
  refine ⟨xorIn s.lanes (pad (blockBytes s.block n) n a.rateBytes) (a.rateBytes / 8),
    exec_absorbLast_of_set hc ha hn hl hw, fun k hk => ?_⟩
  rw [stateByte_xorIn_pad a s.lanes _ n k hk, padByte_blockBytes]

end Sys2Proof.Machine
end

section
/-! PROOF. How ERR is cleared (60_exceptions R183). -/

namespace Sys2Proof.Machine

/-- "Execute never raises an error" (R181), nor clears one. -/
theorem execute_keeps_err {i : Instr} {f : Inflight} {s t : State} (h : execute i f s = .next t) : t.err = s.err := by
  rcases execute_cases h with ⟨-, rfl⟩ | ⟨_, -, -, rfl⟩ | ⟨_, _, _, _, _, -, -, -, -, rfl⟩ | ⟨_, _, _, -, -, -, -, rfl⟩ <;>
    rfl

theorem readReg_keeps_err (r : Reg) (s : State) : (readReg r s).2.err = s.err := by
  rcases readReg_state r s with h | h <;> rw [h]

theorem raiseError_err_ne_none (e : CmdError) (s : State) : (raiseError e s).err ≠ none := by
  simp

/-- No case of a step but a STATUS write and reset clears ERR: every other one keeps it or raises it. -/
theorem StepCase.clears_err {s t : State} (h : StepCase s t) (hs : s.err ≠ none) (ht : t.err = none) :
    s.resetComes ∨ ∃ v : Word, s.hostWrites .status v ∧ v.getLsbD 2 = true := by
  cases h with
  | reset hr => exact .inl hr
  | writeStatus v hw h =>
    subst h
    rw [endHostTurn_err, writeStatus_err] at ht
    cases hv : v.getLsbD 2 with
    | true => exact .inr ⟨v, hw, hv⟩
    | false =>
      rw [hv] at ht
      exact absurd ht hs
  | complete f u _ _ he h =>
    subst h
    exact absurd ((execute_keeps_err he).symm.trans ht) hs
  | read r _ h =>
    subst h
    exact absurd ((readReg_keeps_err r s).symm.trans ht) hs
  | busError _ _ h | writeBusy _ _ h | refuse _ _ _ _ h =>
    subst h
    exact absurd ht (raiseError_err_ne_none _ s)
  | idle h | writeState _ _ _ _ h | writeBlock _ _ _ _ h | writeConfig _ _ h | writeIgnored _ h
  | start _ _ _ _ _ _ _ h | wait _ h =>
    subst h
    exact absurd ht hs

/-- Settles O7: the write is the STATUS write of `statusWriteClearsByBits`, and `StepCase.clears_err` goes through what a
step can do. -/
theorem errorsAreClearedOnlyByStatusWriteOrReset : Obligations.ErrorsAreClearedOnlyByStatusWriteOrReset := by
  refine ⟨fun s v hw hv => ?_, fun s t hstep => (step_cases hstep).clears_err⟩
  exact ⟨_, statusWriteClearsByBits s v hw, if_pos hv, rfl, rfl, rfl, rfl, rfl, rfl⟩

end Sys2Proof.Machine
end

section
/-! PROOF. Command words: the decoder against the encoder and the opcode table (30_encoding R82 to R84, R92). -/

namespace Sys2Proof.Machine

/-- Settles O1: one round trip a command, the operands over the whole of their fields. -/
theorem decodeOfEncodeGivesTheCommand : Obligations.DecodeOfEncodeGivesTheCommand := by
  intro i hwf
  cases i with
  | nop => exact Laws.RoundTrip.nop hwf
  | init => exact Laws.RoundTrip.init hwf
  | absorb => exact Laws.RoundTrip.absorb hwf
  | absorbLast len => exact Laws.RoundTrip.absorbLast len hwf
  | squeeze => exact Laws.RoundTrip.squeeze hwf
  | permute => exact Laws.RoundTrip.permute hwf
  | round ir => exact Laws.RoundTrip.round ir hwf
  | theta => exact Laws.RoundTrip.theta hwf
  | rho => exact Laws.RoundTrip.rho hwf
  | pi => exact Laws.RoundTrip.pi hwf
  | chi => exact Laws.RoundTrip.chi hwf
  | iota ir => exact Laws.RoundTrip.iota ir hwf

/-- A word is its bits outside a field together with the field. -/
theorem or_fieldAt_extractLsb' (w : Word) (lo n : Nat) :
    (w &&& ~~~fieldAt lo (BitVec.allOnes n)) ||| fieldAt lo (w.extractLsb' lo n) = w := by
  apply BitVec.eq_of_getLsbD_eq
  intro b hb
  simp only [BitVec.getLsbD_or, BitVec.getLsbD_and, BitVec.getLsbD_not, getLsbD_fieldAt, BitVec.getLsbD_extractLsb',
    BitVec.getLsbD_allOnes, hb, decide_true, Bool.true_and]
  by_cases hl : lo ≤ b
  · rw [Nat.add_sub_of_le hl]
    by_cases hn : b - lo < n <;> simp [hl, hn]
  · simp [hl]

/-- A field of a word is the number it holds, moved to its place. -/
theorem fieldAt_eq_ofNat_shiftLeft {n : Nat} (lo : Nat) (f : BitVec n) :
    fieldAt lo f = BitVec.ofNat 64 f.toNat <<< lo := by
  rw [BitVec.ofNat_toNat]
  rfl

/-- A word that matches a row whose mask leaves one field free is the row's value with some value of that field. -/
theorem eq_of_hit_free_field {w value mask : Word} (lo n : Nat) (hm : mask = ~~~fieldAt lo (BitVec.allOnes n))
    (h : w &&& mask = value) : ∃ k < 2 ^ n, w = value ||| BitVec.ofNat 64 k <<< lo := by
  refine ⟨(w.extractLsb' lo n).toNat, BitVec.isLt _, ?_⟩
  rw [← fieldAt_eq_ofNat_shiftLeft, ← h, hm, or_fieldAt_extractLsb']

/-- A word that matches a row whose mask leaves no field free is the row's value. -/
theorem eq_of_hit_closed {w value mask : Word} (hm : mask = BitVec.allOnes 64) (h : w &&& mask = value) :
    w = value := by
  rw [← h, hm, BitVec.and_allOnes]

/-- A word that matches a row is the word of a well-formed command of that row (R84). -/
theorem command_of_hit {r : OpcodeRow} (hr : r ∈ opcodeTable) {w : Word} (h : w &&& r.mask = r.value) :
    ∃ i : Instr, i.wf = true ∧ encode i = w ∧ i.mnemonic = r.mnemonic := by
  simp only [opcodeTable, List.mem_cons, List.not_mem_nil, or_false] at hr
  rcases hr with rfl | rfl | rfl | rfl | rfl | rfl | rfl | rfl | rfl | rfl | rfl | rfl
  · exact ⟨.nop, rfl, (eq_of_hit_closed (by decide) h).symm, rfl⟩
  · exact ⟨.init, rfl, (eq_of_hit_closed (by decide) h).symm, rfl⟩
  · exact ⟨.absorb, rfl, (eq_of_hit_closed (by decide) h).symm, rfl⟩
  · obtain ⟨n, hn, hw⟩ := eq_of_hit_free_field 8 8 (by decide) h
    exact ⟨.absorbLast n, decide_eq_true hn, hw.symm, rfl⟩
  · exact ⟨.squeeze, rfl, (eq_of_hit_closed (by decide) h).symm, rfl⟩
  · exact ⟨.permute, rfl, (eq_of_hit_closed (by decide) h).symm, rfl⟩
  · obtain ⟨n, hn, hw⟩ := eq_of_hit_free_field 16 5 (by decide) h
    exact ⟨.round n, decide_eq_true hn, hw.symm, rfl⟩
  · exact ⟨.theta, rfl, (eq_of_hit_closed (by decide) h).symm, rfl⟩
  · exact ⟨.rho, rfl, (eq_of_hit_closed (by decide) h).symm, rfl⟩
  · exact ⟨.pi, rfl, (eq_of_hit_closed (by decide) h).symm, rfl⟩
  · exact ⟨.chi, rfl, (eq_of_hit_closed (by decide) h).symm, rfl⟩
  · obtain ⟨n, hn, hw⟩ := eq_of_hit_free_field 16 5 (by decide) h
    exact ⟨.iota n, decide_eq_true hn, hw.symm, rfl⟩

theorem absorbLast_hits : ∀ n < 256, encode (.absorbLast n) &&& 0xFFFFFFFFFFFF00FF = 0x03 := by decide +kernel
theorem round_hits : ∀ n < 32, encode (.round n) &&& 0xFFFFFFFFFFE0FFFF = 0x09 := by decide +kernel
theorem iota_hits : ∀ n < 32, encode (.iota n) &&& 0xFFFFFFFFFFE0FFFF = 0x14 := by decide +kernel

/-- Every command has a row, which its word matches when its operand fits (R82, R84). -/
theorem exists_row_hit (i : Instr) (hwf : i.wf = true) :
    ∃ r ∈ opcodeTable, i.mnemonic = r.mnemonic ∧ encode i &&& r.mask = r.value := by
  cases i with
  | absorbLast n => exact ⟨opcodeTable[3], by simp, rfl, absorbLast_hits n (of_decide_eq_true hwf)⟩
  | round n => exact ⟨opcodeTable[6], by simp, rfl, round_hits n (of_decide_eq_true hwf)⟩
  | iota n => exact ⟨opcodeTable[11], by simp, rfl, iota_hits n (of_decide_eq_true hwf)⟩
  | nop | init | absorb | squeeze | permute | theta | rho | pi | chi => decide

theorem opcodeRow_eq_of_mnemonic :
    ∀ r ∈ opcodeTable, ∀ q ∈ opcodeTable, r.mnemonic = q.mnemonic → r = q := by decide

/-- A word matches a row exactly when it names a command of the row (R84). -/
theorem hit_iff_decode {r : OpcodeRow} (hr : r ∈ opcodeTable) (w : Word) :
    w &&& r.mask = r.value ↔ ∃ i, decode w = .ok i ∧ i.mnemonic = r.mnemonic := by
  constructor
  · intro h
    obtain ⟨i, hwf, rfl, hm⟩ := command_of_hit hr h
    exact ⟨i, decodeOfEncodeGivesTheCommand i hwf, hm⟩
  · rintro ⟨i, hd, hm⟩
    obtain ⟨rfl, hwf⟩ := encode_of_decode hd
    obtain ⟨q, hq, hmq, hhit⟩ := exists_row_hit i hwf
    cases opcodeRow_eq_of_mnemonic r hr q hq (hm.symm.trans hmq)
    exact hhit

/-- The opcode map has a command exactly for the OPCODEs it lists (R82). -/
theorem opcodeMap_eq_none_iff (op len ir : Nat) :
    opcodeMap op len ir = none ↔ op ∉ [0, 1, 2, 3, 4, 8, 9, 0x10, 0x11, 0x12, 0x13, 0x14] := by
  unfold opcodeMap
  split <;> simp_all

/-- The decoder's errors split by whether the OPCODE is listed (R83). -/
theorem decode_error_eq {w : Word} {e : DecodeError} (h : decode w = .error e) :
    e = if w.toNat % 256 ∈ [0, 1, 2, 3, 4, 8, 9, 0x10, 0x11, 0x12, 0x13, 0x14]
      then .reservedField else .illegalOpcode := by
  unfold decode at h
  rw [opcodeField_eq] at h
  split at h
  next hn =>
    rw [if_neg ((opcodeMap_eq_none_iff _ _ _).1 hn)]
    exact (Except.error.inj h).symm
  next i hi =>
    have hlisted : w.toNat % 256 ∈ [0, 1, 2, 3, 4, 8, 9, 0x10, 0x11, 0x12, 0x13, 0x14] := by
      by_contra hn
      rw [(opcodeMap_eq_none_iff _ _ _).2 hn] at hi
      cases hi
    rw [if_pos hlisted]
    split at h
    · cases h
    · exact (Except.error.inj h).symm

/-- Settles O2: `hit_iff_decode` ties rows to commands, and since a word names at most one command, rows are disjoint and
a word no row matches is an error of the decoder. -/
theorem decoderAgreesWithOpcodeTable : Obligations.DecoderAgreesWithOpcodeTable := by
  refine ⟨fun r hr w => hit_iff_decode hr w, fun r hr q hq w hwr hwq => ?_, by decide, fun w hw => ?_⟩
  · obtain ⟨i, hi, hmr⟩ := (hit_iff_decode hr w).1 hwr
    obtain ⟨j, hj, hmq⟩ := (hit_iff_decode hq w).1 hwq
    cases hi.symm.trans hj
    exact opcodeRow_eq_of_mnemonic r hr q hq (hmr.symm.trans hmq)
  · cases hd : decode w with
    | ok i =>
      obtain ⟨hwi, hwf⟩ := encode_of_decode hd
      obtain ⟨r, hr, -, hhit⟩ := exists_row_hit i hwf
      exact absurd (hwi ▸ hhit) (hw r hr)
    | error e =>
      rw [decode_error_eq hd]
      split <;> rfl

/-- A refused write to CMD records its code and stores nothing (R86, R24). -/
theorem step_of_refused_cmdWrite {s : State} {w : Word} {e : CmdError} (h : s.hostWrites .cmd w) (he : s.err = none)
    (hr : refusalOf w s = some e) : ∃ t, step s = .next t ∧ t.err = some e ∧ t.cmd = s.cmd := by
  rw [step_of_cmdWrite h, accept_of_refusalOf_some he hr]
  exact ⟨_, rfl, rfl, rfl⟩

/-- Settles O3: the three commands round-trip, and each of the three other words fails its check of R86. -/
theorem workedEncodingsDecode : Obligations.WorkedEncodingsDecode := by
  refine ⟨rfl, rfl, rfl, decodeOfEncodeGivesTheCommand (.absorbLast 3) rfl,
    decodeOfEncodeGivesTheCommand (.round 5) rfl, decodeOfEncodeGivesTheCommand (.iota 23) rfl,
    fun s he hb => ⟨fun hw => step_of_refused_cmdWrite hw he ?_, fun hw => step_of_refused_cmdWrite hw he ?_,
      fun hw => step_of_refused_cmdWrite hw he ?_⟩⟩
  all_goals simp [refusalOf, hb]

/-- Settles O4: a write to CMD runs the decoded command's exec, and so does the core's move. -/
theorem stepRunsTheDecodedCommand : Obligations.StepRunsTheDecodedCommand := by
  refine ⟨fun s w i hw hd => ?_, fun s i v hc => step_of_completing hc⟩
  calc step s = writeCmd exec w s := step_of_hostWrites hw
    _ = exec i s := by rw [writeCmd, hd]

end Sys2Proof.Machine
end

section
/-! PROOF. What one step can change, said once and more coarsely than `StepCase`: the steps that leave the command in
flight, the data and the sponge alone are one case. -/

namespace Sys2Proof.Machine

/-- What an execution that goes on leaves unchanged (R88, R181). -/
theorem execute_frame {i : Instr} {f : Inflight} {s u : State} (h : execute i f s = .next u) :
    u = { s with
      lanes := u.lanes, laneSet := u.laneSet, phase := u.phase, activeVariant := u.activeVariant, draws := u.draws } := by
  rcases execute_cases h with ⟨-, rfl⟩ | ⟨_, -, -, rfl⟩ | ⟨_, _, _, _, _, -, -, -, -, rfl⟩ | ⟨_, _, _, -, -, -, -, rfl⟩ <;>
    rfl

/-- What one step can change. -/
inductive StepChange (s t : State) : Prop where
  /-- An idle turn, a read, a poll, a refused or ignored access, or a STATUS write. -/
  | quiet (h : t = { s with
        done := t.done, err := t.err, program := t.program, turns := t.turns, response := t.response, draws := t.draws })
      (hd : s.done = false → t.done = false) (he : ∀ e, s.err = some e → t.err = some e ∨ t.err = none)
  | writeState (i : Fin 25) (v : Word) (hw : s.hostWrites (.state i) v) (hb : s.busy = false)
      (h : t = (s.setLane i v).endHostTurn .writeOk)
  | writeBlock (j : Fin 18) (v : Word) (hw : s.hostWrites (.block j) v) (hb : s.busy = false)
      (h : t = (s.setBlock j v).endHostTurn .writeOk)
  | writeConfig (v : Word) (hw : s.hostWrites .config v) (h : t = (writeConfig v s).endHostTurn .writeOk)
  | start (i : Instr) (hw : s.hostWrites .cmd (encode i)) (hd : decode (encode i) = .ok i) (he : s.err = none)
      (hb : s.busy = false) (ha : s.admits ⟨i, s.cfgVariant⟩) (h : t = (startCommand i s).endHostTurn .writeOk)
  | complete (i : Instr) (v : BitVec 3) (u : State) (hc : s.completing i v) (he : execute i ⟨i, v⟩ s = .next u)
      (h : t = finishCommand u)
  | reset (hr : s.resetComes) (h : t = s.afterReset)

theorem raiseError_keeps_err {e e' : CmdError} {s : State} (h : s.err = some e) : (raiseError e' s).err = some e := by
  rw [raiseError_err, h]
  rfl

/-- A refused access only records its error. -/
theorem StepChange.ofRaise {s t : State} (e : CmdError) (a : Response) (h : t = (raiseError e s).endHostTurn a) :
    StepChange s t := by
  subst h
  refine .quiet ?_ (fun hd => ?_) fun e' he => .inl (raiseError_keeps_err he)
  · rw [raiseError_eq]
    rfl
  · rw [endHostTurn_done, raiseError_done, hd]

/-- An access that neither changes a register nor raises an error. -/
theorem StepChange.ofUnchanged {s t : State} (h : t = { s with
    program := t.program, turns := t.turns, response := t.response, draws := t.draws }) : StepChange s t := by
  have hd : t.done = s.done := by rw [h]
  have he : t.err = s.err := by rw [h]
  refine .quiet ?_ (fun hs => hd.trans hs) fun e hs => .inl (he.trans hs)
  rw [hd, he]
  exact h

/-- Every step is one of these changes. -/
theorem step_change {s t : State} (h : step s = .next t) : StepChange s t := by
  cases step_cases h with
  | complete f u hm hf he h => exact .complete f.command f.variant u ⟨hm, hf⟩ he h
  | writeState i v hw hb h => exact .writeState i v hw hb h
  | writeBlock j v hw hb h => exact .writeBlock j v hw hb h
  | writeConfig v hw h => exact .writeConfig v hw h
  | start w i hw hd he hb ha h =>
    obtain ⟨rfl, -⟩ := encode_of_decode hd
    exact .start i hw hd he hb (admits_of_verdict ha) h
  | reset hr h => exact .reset hr h
  | busError a _ h => exact .ofRaise _ a h
  | writeBusy _ _ h => exact .ofRaise _ _ h
  | refuse _ e _ _ h => exact .ofRaise e _ h
  | writeStatus v _ h =>
    subst h
    refine .quiet ?_ (fun hd => ?_) fun e he => ?_
    · rw [writeStatus_eq]
      rfl
    · rw [endHostTurn_done, writeStatus_done, hd, Bool.false_and]
    · rw [endHostTurn_err, writeStatus_err]
      split
      · exact .inr rfl
      · exact .inl he
  | read r _ h =>
    subst h
    refine .ofUnchanged ?_
    rcases readReg_state r s with hr | hr <;> rw [hr] <;> rfl
  | idle h | writeIgnored _ h | wait _ h =>
    subst h
    exact .ofUnchanged rfl

end Sys2Proof.Machine
end

section
/-! PROOF. The invariant: it holds at reset and every step keeps it, and a state that meets it has a next state. -/

namespace Sys2Proof.Machine

/-- With no command in flight, the invariant is about PHASE, ACTIVE_VARIANT and CMD alone. -/
theorem inv_of_no_inflight {s : State} (hf : s.inflight = none) (hv : s.phase = .idle ↔ s.activeVariant = none)
    (hc : ∃ i, decode s.cmd = .ok i) : s.Inv where
  variantOfPhase := hv
  cmdLegal := hc
  cmdInFlight := fun f h => by rw [hf] at h; cases h
  admitted := fun f h => by rw [hf] at h; cases h
  notDoneInFlight := fun h => by rw [(busy_eq_false_iff s).2 hf] at h; cases h

/-- What a command's conditions read is PHASE and ACTIVE_VARIANT (R86). -/
theorem admits_congr {s t : State} {f : Inflight} (hp : t.phase = s.phase) (ha : t.activeVariant = s.activeVariant)
    (h : s.admits f) : t.admits f := by
  unfold State.admits at h ⊢
  rw [hp, ha]
  exact h

/-- A step that leaves the sponge, CMD and the command in flight alone, and does not set DONE, keeps the invariant. -/
theorem State.Inv.congr {s t : State} (h : s.Inv) (hp : t.phase = s.phase) (ha : t.activeVariant = s.activeVariant)
    (hc : t.cmd = s.cmd) (hf : t.inflight = s.inflight) (hd : s.done = false → t.done = false) : t.Inv where
  variantOfPhase := by rw [hp, ha]; exact h.variantOfPhase
  cmdLegal := by rw [hc]; exact h.cmdLegal
  cmdInFlight := by rw [hc, hf]; exact h.cmdInFlight
  admitted := by rw [hf]; exact fun f hs => admits_congr hp ha (h.admitted f hs)
  notDoneInFlight := by rw [State.busy, hf]; exact fun hb => hd (h.notDoneInFlight hb)

/-- Acceptance keeps the invariant: the record it captures meets the conditions just checked (R86, R87). -/
theorem State.Inv.startCommand {s : State} {i : Instr} (h : s.Inv) (hd : decode (encode i) = .ok i)
    (ha : s.admits ⟨i, s.cfgVariant⟩) : (startCommand i s).Inv where
  variantOfPhase := h.variantOfPhase
  cmdLegal := ⟨i, hd⟩
  cmdInFlight := fun f hf => by cases hf; exact hd
  admitted := fun f hf => by cases hf; exact admits_congr (t := Machine.startCommand i s) rfl rfl ha
  notDoneInFlight := fun _ => rfl

/-- Executions keep ACTIVE_VARIANT = 0 exactly in phase IDLE: INIT sets a variant and leaves IDLE, ABSORB_LAST runs with
a variant set, and the others touch neither (R27, R30). -/
theorem execute_keeps_variantOfPhase {i : Instr} {f : Inflight} {s u : State} (he : execute i f s = .next u)
    (h : s.phase = .idle ↔ s.activeVariant = none) : u.phase = .idle ↔ u.activeVariant = none := by
  rcases execute_cases he with ⟨-, rfl⟩ | ⟨v, -, -, rfl⟩ | ⟨v, _, _, _, _, -, ha, -, -, rfl⟩ | ⟨_, _, _, -, -, -, -, rfl⟩
  · exact h
  · simp
  · simp [ha]
  · exact h

/-- Settles O23: by the kinds of change a step can make; only acceptance, completion and reset touch what the invariant
speaks of, and each re-establishes it. -/
theorem stepKeepsTheInvariant : Obligations.StepKeepsTheInvariant := by
  intro s t hinv hstep
  cases step_change hstep with
  | quiet h hd _ =>
    rw [h]
    exact hinv.congr rfl rfl rfl rfl hd
  | writeState i v _ _ h | writeBlock j v _ _ h | writeConfig v _ h =>
    subst h
    exact hinv.congr rfl rfl rfl rfl id
  | start i _ hd _ _ ha h =>
    subst h
    exact (hinv.startCommand hd ha).congr rfl rfl rfl rfl id
  | complete i v u _ he h =>
    subst h
    have hv := execute_keeps_variantOfPhase he hinv.variantOfPhase
    refine inv_of_no_inflight rfl hv ?_
    rw [execute_frame he]
    exact hinv.cmdLegal
  | reset _ h =>
    subst h
    exact inv_of_no_inflight rfl (by simp) ⟨.nop, Laws.RoundTrip.nop rfl⟩

/-- Settles O22: no command is in flight, PHASE is IDLE with no active variant, and CMD is the word of NOP. -/
theorem invariantHoldsAtReset : Obligations.InvariantHoldsAtReset :=
  inv_of_no_inflight rfl ⟨fun _ => rfl, fun _ => rfl⟩ ⟨.nop, Laws.RoundTrip.nop rfl⟩

/-- A write of any word to any register has a next state. -/
theorem writeReg_goes_on {s : State} {r : Reg} {v : Word} (h : s.hostWrites r v) :
    ∃ t, writeReg exec r v s = .next t := by
  cases r with
  | cmd => exact ⟨_, (step_of_hostWrites h).symm.trans (step_of_cmdWrite h)⟩
  | state | block | status | config | param | info | rc => exact ⟨_, rfl⟩

/-- The host's move always has a next state: no access stops the machine (R53, R188). -/
theorem step_of_host_goes_on {s : State} (hm : s.mover = .host) : ∃ t, step s = .next t := by
  simp only [step, hm, hostMove]
  split
  · exact ⟨_, rfl⟩
  · exact ⟨_, rfl⟩
  next offset size v rest hp =>
    unfold hostWrite
    split
    · exact ⟨_, rfl⟩
    next r hr =>
      obtain ⟨rfl, rfl⟩ := decodeAccess_eq_some.1 hr
      exact writeReg_goes_on ⟨hm, rest, hp⟩
  · exact ⟨_, rfl⟩
  · exact ⟨_, rfl⟩

/-- The core's move has a next state when the command in flight meets its conditions. -/
theorem step_of_core_goes_on {s : State} (hm : s.mover = .core) (hinv : s.Inv) : ∃ t, step s = .next t := by
  simp only [step, hm, coreMove]
  split
  · exact ⟨_, rfl⟩
  next f hf =>
    obtain ⟨u, hu⟩ := execute_of_admits (hinv.admitted f hf) hinv.variantOfPhase
    exact ⟨_, exec_completes f.command hm hf hu⟩

/-- Settles O24: the host's move always goes on, the core's because the invariant admits the command in flight. -/
theorem stepNeverStops : Obligations.StepNeverStops := by
  intro s hinv
  cases hm : s.mover with
  | host => exact step_of_host_goes_on hm
  | core => exact step_of_core_goes_on hm hinv

/-- A host's move other than the reset event leaves the command in flight, and CMD, alone while BUSY = 1. -/
theorem host_step_keeps_inflight {s t : State} (hb : s.busy = true) (hm : s.mover = .host) (hr : ¬s.resetComes)
    (hstep : step s = .next t) : t.inflight = s.inflight ∧ t.cmd = s.cmd := by
  cases step_change hstep with
  | quiet h _ _ =>
    rw [h]
    exact ⟨rfl, rfl⟩
  | writeConfig _ _ h =>
    subst h
    exact ⟨rfl, rfl⟩
  | writeState _ _ _ hb' _ | writeBlock _ _ _ hb' _ | start _ _ _ _ hb' _ _ => cases hb.symm.trans hb'
  | complete _ _ _ hc _ _ => cases hm.symm.trans hc.1
  | reset hr' _ => exact absurd hr' hr

/-- Settles O6: acceptance by `accept_of_refusalOf_none`, the host's moves by `host_step_keeps_inflight`, and completion
by the frame of execution, which the invariant says goes on. -/
theorem acceptedCommandCompletes : Obligations.AcceptedCommandCompletes := by
  refine ⟨fun s w _ hw he hr => ?_, fun s hinv hb hm hr => ?_, fun s hinv hb hm => ?_⟩
  · obtain ⟨i, hd, ha⟩ := accept_of_refusalOf_none he hr
    rw [step_of_cmdWrite hw, ha]
    exact ⟨_, rfl, rfl, (encode_of_decode hd).1, he⟩
  · obtain ⟨t, ht⟩ := stepNeverStops s hinv
    exact ⟨t, ht, host_step_keeps_inflight hb hm hr ht⟩
  · obtain ⟨f, hf⟩ := Option.isSome_iff_exists.1 hb
    obtain ⟨u, hu⟩ := execute_of_admits (hinv.admitted f hf) hinv.variantOfPhase
    refine ⟨finishCommand u, (step_of_completing ⟨hm, hf⟩).trans (exec_completes f.command hm hf hu), rfl, rfl, ?_, ?_⟩
    · rw [execute_frame hu]
      rfl
    · rw [finishCommand_err, execute_keeps_err hu]

end Sys2Proof.Machine
end

section
/-! PROOF. Which steps change what (10_state, 60_exceptions R191). -/

namespace Sys2Proof.Machine

/-- Settles O8: quiet steps keep the code or clear it, reset clears it, and no other change touches it. -/
theorem firstErrorIsKept : Obligations.FirstErrorIsKept := by
  intro s t e hstep hs
  cases step_change hstep with
  | quiet _ _ he => exact he e hs
  | complete _ _ u _ he h =>
    subst h
    exact .inl ((execute_keeps_err he).trans hs)
  | reset _ h =>
    subst h
    exact .inr rfl
  | writeState _ _ _ _ h | writeBlock _ _ _ _ h | writeConfig _ _ h | start _ _ _ _ _ _ h =>
    subst h
    exact .inl hs

/-- Settles O25: of the executions only INIT's and ABSORB_LAST's touch PHASE, and of the other changes only reset. -/
theorem phaseChangesOnlyByInitAbsorbLastReset : Obligations.PhaseChangesOnlyByInitAbsorbLastReset := by
  intro s t hstep hne
  cases step_change hstep with
  | quiet h _ _ => exact absurd (by rw [h]) hne
  | writeState _ _ _ _ h | writeBlock _ _ _ _ h | writeConfig _ _ h | start _ _ _ _ _ _ h =>
    subst h
    exact absurd rfl hne
  | complete i v u hc he h =>
    subst h
    rcases execute_cases he with ⟨-, rfl⟩ | ⟨_, rfl, -, rfl⟩ | ⟨_, n, _, _, _, rfl, -, -, -, rfl⟩ |
      ⟨_, _, _, -, -, -, -, rfl⟩
    · exact absurd rfl hne
    · exact .inl ⟨v, hc, rfl⟩
    · exact .inr (.inl ⟨n, v, hc, rfl⟩)
    · exact absurd rfl hne
  | reset hr h =>
    subst h
    exact .inr (.inr ⟨hr, rfl⟩)

/-- The variant of a code has that code (R32). -/
theorem code_of_ofCode {c : BitVec 3} {a : Variant} (h : Variant.ofCode c = some a) : a.code = c := by
  revert c
  cases a <;> decide

/-- Settles O26: of the executions only INIT's touches ACTIVE_VARIANT, with the variant of the captured code. -/
theorem activeVariantChangesOnlyByInitReset : Obligations.ActiveVariantChangesOnlyByInitReset := by
  intro s t hstep hne
  cases step_change hstep with
  | quiet h _ _ => exact absurd (by rw [h]) hne
  | writeState _ _ _ _ h | writeBlock _ _ _ _ h | writeConfig _ _ h | start _ _ _ _ _ _ h =>
    subst h
    exact absurd rfl hne
  | complete i v u hc he h =>
    subst h
    rcases execute_cases he with ⟨-, rfl⟩ | ⟨_, rfl, ha, rfl⟩ | ⟨_, _, _, _, _, -, -, -, -, rfl⟩ |
      ⟨_, _, _, -, -, -, -, rfl⟩
    · exact absurd rfl hne
    · exact .inl ⟨v, hc, code_of_ofCode ha⟩
    · exact absurd rfl hne
    · exact absurd rfl hne
  | reset hr h =>
    subst h
    exact .inr ⟨hr, rfl⟩

/-- Settles O27: NOP's execution leaves the lanes, and so does every change but a STATE write and reset. -/
theorem lanesChangeOnlyByCompletionStateWriteReset : Obligations.LanesChangeOnlyByCompletionStateWriteReset := by
  intro s t hstep hne
  cases step_change hstep with
  | quiet h _ _ => exact absurd (by rw [h]) hne
  | writeBlock _ _ _ _ h | writeConfig _ _ h | start _ _ _ _ _ _ h =>
    subst h
    exact absurd rfl hne
  | writeState i v hw hb h =>
    subst h
    exact .inr (.inl ⟨i, v, hw, hb, rfl⟩)
  | complete i v u hc he h =>
    subst h
    refine .inl ⟨i, v, hc, ?_⟩
    rintro rfl
    cases he
    exact hne rfl
  | reset hr _ => exact .inr (.inr hr)

/-- Settles O28: executions leave the buffer (`execute_frame`), and so does every change but a BLOCK write and reset. -/
theorem blockChangesOnlyByHostWriteReset : Obligations.BlockChangesOnlyByHostWriteReset := by
  intro s t hstep hne
  cases step_change hstep with
  | quiet h _ _ => exact absurd (by rw [h]) hne
  | writeState _ _ _ _ h | writeConfig _ _ h | start _ _ _ _ _ _ h =>
    subst h
    exact absurd rfl hne
  | writeBlock j v hw hb h =>
    subst h
    exact .inl ⟨j, v, hw, hb, rfl⟩
  | complete _ _ u _ he h =>
    subst h
    exact absurd (by rw [execute_frame he]; rfl) hne
  | reset hr _ => exact .inr hr

/-- Settles O29: only acceptance stores a word, and it stores the word the host wrote. -/
theorem cmdChangesOnlyByAcceptanceReset : Obligations.CmdChangesOnlyByAcceptanceReset := by
  intro s t hstep hne
  cases step_change hstep with
  | quiet h _ _ => exact absurd (by rw [h]) hne
  | writeState _ _ _ _ h | writeBlock _ _ _ _ h | writeConfig _ _ h =>
    subst h
    exact absurd rfl hne
  | start i hw _ he hb _ h =>
    subst h
    exact .inl ⟨hw, he, hb, rfl⟩
  | complete _ _ u _ he h =>
    subst h
    exact absurd (by rw [execute_frame he]; rfl) hne
  | reset hr _ => exact .inr hr

/-- Settles O30: CONFIG's three fields change only in a CONFIG write and in reset. -/
theorem configChangesOnlyByHostWriteReset : Obligations.ConfigChangesOnlyByHostWriteReset := by
  intro s t hstep hne
  cases step_change hstep with
  | quiet h _ _ => exact absurd (by rw [h]; rfl) hne
  | writeState _ _ _ _ h | writeBlock _ _ _ _ h | start _ _ _ _ _ _ h =>
    subst h
    exact absurd rfl hne
  | writeConfig v hw _ => exact .inl ⟨v, hw⟩
  | complete _ _ u _ he h =>
    subst h
    exact absurd (by rw [execute_frame he]; rfl) hne
  | reset hr _ => exact .inr hr

/-- Settles O31: only acceptance sets BUSY, and only completion and reset clear it. -/
theorem busyChangesOnlyByAcceptanceCompletionReset : Obligations.BusyChangesOnlyByAcceptanceCompletionReset := by
  intro s t hstep
  refine ⟨fun hs ht => ?_, fun hs ht => ?_⟩
  · cases step_change hstep with
    | start i hw _ _ _ _ h =>
      subst h
      exact ⟨_, hw, rfl, rfl⟩
    | quiet h _ _ =>
      rw [h] at ht
      cases hs.symm.trans ht
    | writeState _ _ _ _ h | writeBlock _ _ _ _ h | writeConfig _ _ h =>
      subst h
      cases hs.symm.trans ht
    | complete _ _ _ _ _ h | reset _ h =>
      subst h
      cases ht
  · cases step_change hstep with
    | complete i v _ hc _ h =>
      subst h
      exact .inl ⟨i, v, hc, rfl⟩
    | reset hr _ => exact .inr hr
    | quiet h _ _ =>
      rw [h] at ht
      cases hs.symm.trans ht
    | writeState _ _ _ _ h | writeBlock _ _ _ _ h | writeConfig _ _ h =>
      subst h
      cases hs.symm.trans ht
    | start _ _ _ _ _ _ h =>
      subst h
      cases ht

/-- An execution that draws leaves no lane with a value (log 4). -/
theorem execute_draws {i : Instr} {f : Inflight} {s u : State} (he : execute i f s = .next u)
    (hd : u.draws ≠ s.draws) : u.laneSet = Vector.replicate 25 false := by
  rcases execute_cases he with ⟨-, rfl⟩ | ⟨_, -, -, rfl⟩ | ⟨_, _, _, _, _, -, -, -, hm, rfl⟩ | ⟨_, _, _, -, -, -, hm, rfl⟩
  · exact absurd rfl hd
  · exact absurd rfl hd
  all_goals
    rcases hm with ⟨-, h⟩ | ⟨-, h, -⟩
    · exact absurd h hd
    · exact h

/-- Settles O32: the frame of the execution, with the end of the completion step around it. -/
theorem completionFrame : Obligations.CompletionFrame := by
  intro s t i v hc hexec
  obtain ⟨u, he, rfl⟩ := exec_core_next hc.1 hc.2 hexec
  refine ⟨?_, fun hd k => ?_⟩
  · rw [execute_frame he]
    rfl
  · have hm : u.laneSet = Vector.replicate 25 false := execute_draws he hd
    simp [hm]

/-- Which lanes have a value after an execution: all after INIT, none where an operand had none, else those before
(R22). -/
theorem execute_laneSet {i : Instr} {f : Inflight} {s u : State} (he : execute i f s = .next u) :
    (i = .init ∧ u.laneSet = Vector.replicate 25 true) ∨ u.laneSet = s.laneSet ∨
      (s.SomethingUnset ∧ u.laneSet = Vector.replicate 25 false) := by
  rcases execute_cases he with ⟨-, rfl⟩ | ⟨_, hi, -, rfl⟩ | ⟨_, _, _, _, _, -, -, -, hm, rfl⟩ |
    ⟨_, _, _, -, -, -, hm, rfl⟩
  · exact .inr (.inl rfl)
  · exact .inl ⟨hi, rfl⟩
  all_goals
    rcases hm with ⟨h, -⟩ | ⟨hs, h, -⟩
    · exact .inr (.inl h)
    · exact .inr (.inr ⟨hs, h⟩)

/-- What a step can do to the marks of the lanes (R22). -/
theorem step_laneSet {s t : State} (hstep : step s = .next t) :
    t.laneSet = s.laneSet ∨
    (∃ (i : Fin 25) (v : Word), s.hostWrites (.state i) v ∧ s.busy = false ∧ t.laneSet = s.laneSet.set i.val true) ∨
    ((∃ v, s.completing .init v) ∧ t.laneSet = Vector.replicate 25 true) ∨
    ((s.resetComes ∨ (∃ c v, s.completing c v) ∧ s.SomethingUnset) ∧ t.laneSet = Vector.replicate 25 false) := by
  cases step_change hstep with
  | quiet h _ _ =>
    rw [h]
    exact .inl rfl
  | writeBlock _ _ _ _ h | writeConfig _ _ h | start _ _ _ _ _ _ h =>
    subst h
    exact .inl rfl
  | writeState i v hw hb h =>
    subst h
    exact .inr (.inl ⟨i, v, hw, hb, rfl⟩)
  | complete i v u hc he h =>
    subst h
    rcases execute_laneSet he with ⟨rfl, hl⟩ | hl | ⟨hs, hl⟩
    · exact .inr (.inr (.inl ⟨⟨v, hc⟩, hl⟩))
    · exact .inl hl
    · exact .inr (.inr (.inr ⟨.inr ⟨⟨i, v, hc⟩, hs⟩, hl⟩))
  | reset hr h =>
    subst h
    exact .inr (.inr (.inr ⟨.inl hr, rfl⟩))

/-- What a step can do to the marks of the block words (R23). -/
theorem step_blockSet {s t : State} (hstep : step s = .next t) :
    t.blockSet = s.blockSet ∨
    (∃ (j : Fin 18) (v : Word), s.hostWrites (.block j) v ∧ s.busy = false ∧ t.blockSet = s.blockSet.set j.val true) ∨
    (s.resetComes ∧ t.blockSet = Vector.replicate 18 false) := by
  cases step_change hstep with
  | quiet h _ _ =>
    rw [h]
    exact .inl rfl
  | writeState _ _ _ _ h | writeConfig _ _ h | start _ _ _ _ _ _ h =>
    subst h
    exact .inl rfl
  | writeBlock j v hw hb h =>
    subst h
    exact .inr (.inl ⟨j, v, hw, hb, rfl⟩)
  | complete _ _ u _ he h =>
    subst h
    rw [execute_frame he]
    exact .inl rfl
  | reset hr h =>
    subst h
    exact .inr (.inr ⟨hr, rfl⟩)

/-- Setting one mark gives a value to its own place only. -/
theorem eq_of_set_true {n : Nat} {m : Vector Bool n} {i k : Fin n} (hk : m[k] = false)
    (h : (m.set i.val true)[k] = true) : k = i := by
  by_contra hne
  have hne' : i.val ≠ k.val := fun h' => hne (Fin.ext h'.symm)
  simp only [Fin.getElem_fin, Vector.getElem_set_ne _ _ hne'] at h hk
  cases hk.symm.trans h

/-- Setting one mark takes no value away. -/
theorem set_true_of_true {n : Nat} {m : Vector Bool n} {i k : Fin n} (hk : m[k] = true) :
    (m.set i.val true)[k] = true := by
  simp only [Fin.getElem_fin, Vector.getElem_set] at hk ⊢
  split
  · rfl
  · exact hk

/-- Settles O59: `step_laneSet` and `step_blockSet` say where marks come from and where they go. -/
theorem unspecifiedUntilSet : Obligations.UnspecifiedUntilSet := by
  intro s t hstep
  refine ⟨fun k hs ht => ?_, fun k hs ht => ?_, fun k hs ht => ?_, fun k hs ht => ?_⟩
  · rcases step_laneSet hstep with h | ⟨i, v, hw, hb, h⟩ | ⟨hc, -⟩ | ⟨-, h⟩
    · rw [h, hs] at ht
      cases ht
    · rw [h] at ht
      cases eq_of_set_true hs ht
      exact .inr ⟨v, hw, hb⟩
    · exact .inl hc
    · simp [h] at ht
  · rcases step_blockSet hstep with h | ⟨j, v, hw, hb, h⟩ | ⟨-, h⟩
    · rw [h, hs] at ht
      cases ht
    · rw [h] at ht
      cases eq_of_set_true hs ht
      exact ⟨v, hw, hb⟩
    · simp [h] at ht
  · rcases step_laneSet hstep with h | ⟨i, v, -, -, h⟩ | ⟨-, h⟩ | ⟨hc, -⟩
    · rw [h, hs] at ht
      cases ht
    · rw [h, set_true_of_true hs] at ht
      cases ht
    · simp [h] at ht
    · exact hc
  · rcases step_blockSet hstep with h | ⟨j, v, -, -, h⟩ | ⟨hr, -⟩
    · rw [h, hs] at ht
      cases ht
    · rw [h, set_true_of_true hs] at ht
      cases ht
    · exact hr

end Sys2Proof.Machine
end

section
/-! PROOF. The register window: bus errors, the address map, reads and writes (20_memory R51 to R58). -/

namespace Sys2Proof.Machine

/-- An access of the wrong size, misaligned or in a gap of the map reaches no register (R51, R53). -/
theorem decodeAccess_eq_none {offset : Fin 0x400} {size : Nat}
    (h : size ≠ 8 ∨ offset.val % 8 ≠ 0 ∨ (0x0C8 ≤ offset.val ∧ offset.val < 0x100) ∨
      (0x190 ≤ offset.val ∧ offset.val < 0x1C0) ∨ (0x1E8 ≤ offset.val ∧ offset.val < 0x200) ∨ 0x2C0 ≤ offset.val) :
    decodeAccess offset size = none := by
  rw [Option.eq_none_iff_forall_ne_some]
  intro r hr
  obtain ⟨rfl, rfl⟩ := decodeAccess_eq_some.1 hr
  cases r with
  | state i | block i | rc i =>
    simp only [Reg.offset] at h
    omega
  | cmd | status | config | param | info => revert h; decide

/-- A bus error in whole: the answer, BUS_ERROR if no error stood, and the host's next input (R53). -/
theorem busError_eq (a : Response) (s : State) :
    busError a s = { s with
      program := s.program.tail, turns := s.turns.tail, response := some a, err := some (s.err.getD .busError) } := by
  rw [busError, raiseError_eq]
  rfl

/-- Settles O9: the access reaches no register, and `busError_eq` says what happens then. -/
theorem badAccessIsBusError : Obligations.BadAccessIsBusError := by
  intro s offset size hm hbad
  have hnone := decodeAccess_eq_none hbad
  refine ⟨fun rest hp => ?_, fun rest v hp => ?_⟩
  · simp only [step, hm, hostMove, hp, hostRead, hnone, busError_eq, List.tail_cons]
  · simp only [step, hm, hostMove, hp, hostWrite, hnone, busError_eq, List.tail_cons]

/-- Settles O10: an 8-byte access reaches a register exactly at the register's own offset. -/
theorem addressMapOfTheWindow : Obligations.AddressMapOfTheWindow := by
  intro offset r
  rw [decodeAccess_eq_some, and_iff_right rfl, Fin.ext_iff]
  cases r with
  | state i => simp [Reg.offset]
  | block | cmd | status | config | param | info | rc => rfl

/-- Settles O11: every read but a STATE read while BUSY = 1 leaves the state as it is. -/
theorem readsAreExactAndHaveNoSideEffect : Obligations.ReadsAreExactAndHaveNoSideEffect := by
  intro s r hr hb
  rw [step_of_hostReads hr]
  cases r with
  | state i => simp only [readReg, hb ⟨i, rfl⟩, Bool.false_eq_true, if_false]; rfl
  | block | cmd | status | config | param | info | rc => rfl

/-- Settles O12: the read answers a draw, and only the count of draws moves. -/
theorem stateReadWhileBusyChangesNoRegister : Obligations.StateReadWhileBusyChangesNoRegister := by
  intro s i hr hb
  rw [step_of_hostReads hr]
  simp only [readReg, hb, if_true]
  exact ⟨_, _, rfl⟩

/-- A write to STATE or BLOCK while BUSY = 1 only records BUSY (R58). -/
theorem writeDone_raise_busy (s : State) :
    writeDone (raiseError .busy s) = .next { s with
      program := s.program.tail, turns := s.turns.tail, response := some .writeOk, err := some (s.err.getD .busy) } := by
  rw [writeDone, raiseError_eq]
  rfl

/-- Settles O13: the write is `setLane` or `setBlock` while BUSY = 0, and raises BUSY otherwise. -/
theorem stateAndBlockWrites : Obligations.StateAndBlockWrites := by
  intro s v
  refine ⟨fun i hw hb => ?_, fun j hw hb => ?_, fun i hw hb => ?_, fun j hw hb => ?_⟩ <;>
    rw [step_of_hostWrites hw] <;> simp only [writeReg, hb, if_true, Bool.false_eq_true, if_false]
  · rfl
  · rfl
  · exact writeDone_raise_busy s
  · exact writeDone_raise_busy s

/-- Settles O14: a write to any of the three is answered OK and does nothing else. -/
theorem readOnlyRegistersIgnoreWrites : Obligations.ReadOnlyRegistersIgnoreWrites := by
  intro s v r hr hw
  rw [step_of_hostWrites hw]
  rcases hr with rfl | rfl | ⟨k, rfl⟩ <;> rfl

/-- The bits of CONFIG that are not reserved (R32). -/
theorem getLsbD_configMask : ∀ b < 64, (0x307 : Word).getLsbD b = (decide (b < 3) || decide (b = 8) || decide (b = 9)) := by
  decide

/-- What is written to CONFIG reads back with the reserved bits 0 (R32). -/
theorem configWord_writeConfig (v : Word) (s : State) : configWord (writeConfig v s) = v &&& 0x307 := by
  apply BitVec.eq_of_getLsbD_eq
  intro b hb
  rw [getLsbD_configWord _ _ hb, BitVec.getLsbD_and, getLsbD_configMask b hb, writeConfig_cfgVariant,
    writeConfig_irqEnDone, writeConfig_irqEnErr, BitVec.getLsbD_extractLsb', Nat.zero_add]
  by_cases h8 : b = 8
  · subst h8
    simp
  · by_cases h9 : b = 9
    · subst h9
      simp
    · simp [h8, h9, Bool.and_comm]

/-- Settles O16: the step stores the three fields, and `configWord_writeConfig` gives the word read back. -/
theorem configWriteKeepsItsFields : Obligations.ConfigWriteKeepsItsFields := by
  intro s v hw
  refine ⟨(writeConfig v s).endHostTurn .writeOk, step_of_hostWrites hw, ?_, rfl⟩
  exact configWord_writeConfig v s

/-- Settles O55: a poll answers STATUS, and WAIT stays the next input while BUSY = 1. -/
theorem waitPollsStatus : Obligations.WaitPollsStatus := by
  intro s rest hm hp
  simp only [step, hm, hostMove, hp, pollStatus, List.tail_cons]
  rfl

end Sys2Proof.Machine
end

section
/-! PROOF. The words of STATUS, CONFIG and PARAM, irq, and reset (10_state R25, R34, R41; 60_exceptions R187). -/

namespace Sys2Proof.Machine

/-- A field read at its own place is the field. -/
theorem extractLsb'_fieldAt {n : Nat} (lo : Nat) (f : BitVec n) (h : lo + n ≤ 64) :
    (fieldAt lo f).extractLsb' lo n = f := by
  apply BitVec.eq_of_getLsbD_eq
  intro b hb
  have h64 : lo + b < 64 := by omega
  rw [BitVec.getLsbD_extractLsb', getLsbD_fieldAt, Nat.add_sub_cancel_left]
  simp only [hb, h64, Nat.le_add_right, decide_true, Bool.true_and]

/-- A field does not show at places that it does not overlap. -/
theorem extractLsb'_fieldAt_of_disjoint {n lo lo' m : Nat} (f : BitVec n) (h : lo' + m ≤ lo ∨ lo + n ≤ lo') :
    (fieldAt lo f).extractLsb' lo' m = 0 := by
  apply BitVec.eq_of_getLsbD_eq
  intro b hb
  rw [BitVec.getLsbD_extractLsb', getLsbD_fieldAt]
  rcases h with h | h
  · have hlo : ¬lo ≤ lo' + b := by omega
    simp [hlo]
  · have hf : f.getLsbD (lo' + b - lo) = false := BitVec.getLsbD_of_ge _ _ (by omega)
    simp [hf]

/-- STATUS from bit 4 on, read in pieces: the three one-bit fields are below, and each field reads at its place. -/
theorem extractLsb'_statusWord (s : State) (lo n : Nat) (h : 4 ≤ lo) :
    (statusWord s).extractLsb' lo n =
      (fieldAt 4 s.phase.code).extractLsb' lo n ||| (fieldAt 8 (activeCode s.activeVariant)).extractLsb' lo n |||
        (fieldAt 16 (errCode s.err)).extractLsb' lo n := by
  simp only [statusWord, BitVec.extractLsb'_or]
  rw [extractLsb'_fieldAt_of_disjoint _ (lo := 0) (by omega), extractLsb'_fieldAt_of_disjoint _ (lo := 1) (by omega),
    extractLsb'_fieldAt_of_disjoint _ (lo := 2) (by omega)]
  simp

theorem extractLsb'_statusWord_phase (s : State) : (statusWord s).extractLsb' 4 2 = s.phase.code := by
  rw [extractLsb'_statusWord s 4 2 (by decide), extractLsb'_fieldAt 4 _ (by decide),
    extractLsb'_fieldAt_of_disjoint _ (by decide), extractLsb'_fieldAt_of_disjoint _ (by decide)]
  simp

theorem extractLsb'_statusWord_activeVariant (s : State) :
    (statusWord s).extractLsb' 8 3 = activeCode s.activeVariant := by
  rw [extractLsb'_statusWord s 8 3 (by decide), extractLsb'_fieldAt_of_disjoint _ (lo := 4) (by decide),
    extractLsb'_fieldAt 8 _ (by decide), extractLsb'_fieldAt_of_disjoint _ (by decide)]
  simp

theorem extractLsb'_statusWord_errCode (s : State) : (statusWord s).extractLsb' 16 4 = errCode s.err := by
  rw [extractLsb'_statusWord s 16 4 (by decide), extractLsb'_fieldAt_of_disjoint _ (lo := 4) (by decide),
    extractLsb'_fieldAt_of_disjoint _ (lo := 8) (by decide), extractLsb'_fieldAt 16 _ (by decide)]
  simp

/-- The bits of STATUS between its fields read 0 (R25). -/
theorem extractLsb'_statusWord_reserved (s : State) {lo n : Nat} (h₄ : 6 ≤ lo) (h₈ : lo + n ≤ 8 ∨ 11 ≤ lo)
    (h₁₆ : lo + n ≤ 16 ∨ 20 ≤ lo) : (statusWord s).extractLsb' lo n = 0 := by
  rw [extractLsb'_statusWord s lo n (by omega), extractLsb'_fieldAt_of_disjoint _ (by omega),
    extractLsb'_fieldAt_of_disjoint _ (by omega), extractLsb'_fieldAt_of_disjoint _ (by omega)]
  simp

theorem getLsbD_statusWord_busy (s : State) : (statusWord s).getLsbD 0 = s.busy := by
  rw [getLsbD_statusWord s 0 (by decide)]
  simp

theorem getLsbD_statusWord_done (s : State) : (statusWord s).getLsbD 1 = s.done := by
  rw [getLsbD_statusWord s 1 (by decide)]
  simp

theorem getLsbD_statusWord_err (s : State) : (statusWord s).getLsbD 2 = s.err.isSome := by
  rw [getLsbD_statusWord s 2 (by decide)]
  simp

theorem getLsbD_statusWord_three (s : State) : (statusWord s).getLsbD 3 = false := by
  rw [getLsbD_statusWord s 3 (by decide)]
  simp

/-- Settles O17: the bits 3:0 one by one, the other fields and the reserved bits by the pieces above. -/
theorem statusLayout : Obligations.StatusLayout := by
  intro s
  refine ⟨getLsbD_statusWord_busy s, getLsbD_statusWord_done s, getLsbD_statusWord_err s, getLsbD_statusWord_three s,
    ?_, extractLsb'_statusWord_reserved s (by decide) (by decide) (by decide), ?_,
    extractLsb'_statusWord_reserved s (by decide) (by decide) (by decide), ?_,
    extractLsb'_statusWord_reserved s (by decide) (by decide) (by decide)⟩
  · rw [extractLsb'_statusWord_phase]
    cases s.phase <;> rfl
  · rw [extractLsb'_statusWord_activeVariant]
    rcases s.activeVariant with - | a
    · rfl
    · cases a <;> rfl
  · rw [extractLsb'_statusWord_errCode]
    rcases s.err with - | e
    · rfl
    · cases e <;> rfl

/-- Settles O18: the table of R34, evaluated. -/
theorem paramValues : Obligations.ParamValues := by
  unfold Obligations.ParamValues
  decide

theorem getLsbD_configWord_irqEnDone (s : State) : (configWord s).getLsbD 8 = s.irqEnDone := by
  have hv : s.cfgVariant.getLsbD 8 = false := BitVec.getLsbD_of_ge _ _ (by decide)
  rw [getLsbD_configWord s 8 (by decide), hv]
  simp

theorem getLsbD_configWord_irqEnErr (s : State) : (configWord s).getLsbD 9 = s.irqEnErr := by
  have hv : s.cfgVariant.getLsbD 9 = false := BitVec.getLsbD_of_ge _ _ (by decide)
  rw [getLsbD_configWord s 9 (by decide), hv]
  simp

/-- Settles O19: DONE and ERR are bits 1 and 2 of STATUS, the enables bits 8 and 9 of CONFIG, above VARIANT. -/
theorem irqFromStatusAndConfig : Obligations.IrqFromStatusAndConfig := by
  intro s
  rw [State.irq, getLsbD_statusWord_done, getLsbD_statusWord_err, getLsbD_configWord_irqEnDone,
    getLsbD_configWord_irqEnErr]

/-- Settles O20: the fields of `State.reset`, evaluated. -/
theorem resetLeavesTheStatedValues : Obligations.ResetLeavesTheStatedValues := by
  refine ⟨rfl, by decide, by decide, rfl, rfl, rfl, fun i => ?_, fun j => ?_⟩
  · exact Vector.getElem_replicate i.isLt
  · exact Vector.getElem_replicate j.isLt

/-- Settles O21: the step is `afterReset`, whose registers are those of `State.reset` whatever the state before. -/
theorem resetEventAbandonsTheCommand : Obligations.ResetEventAbandonsTheCommand := by
  intro s hr
  obtain ⟨hcmd, hstatus, hconfig, hparam, hinflight, hirq, hlanes, hblock⟩ := resetLeavesTheStatedValues
  exact ⟨s.afterReset, step_of_resetComes hr, hcmd, hstatus, hconfig, hparam, hinflight, hirq, rfl, rfl, hlanes, hblock⟩

end Sys2Proof.Machine
end

section
/-! PROOF. The completions of the sponge commands, PERMUTE and RHO (40_round R115; 41_permutation R143; 42_sponge R155 to
R159). -/

namespace Sys2Proof.Machine

/-- Settles O34: NOP's execution answers the state it was given. -/
theorem nopCompletes : Obligations.NopCompletes := by
  intro s v hc
  exact exec_of_completing hc (execute_nop _ s)

/-- The codes 1 to 4 are those of the variants (R32). -/
theorem ofCode_of_mem {c : BitVec 3} (h : c.toNat ∈ [1, 2, 3, 4]) : ∃ a, Variant.ofCode c = some a := by
  have hcodes : ∀ c : BitVec 3, c.toNat ∈ [1, 2, 3, 4] → (Variant.ofCode c).isSome = true := by decide
  exact Option.isSome_iff_exists.1 (hcodes c h)

/-- Settles O35: INIT's execution with the variant of the captured code. -/
theorem initCompletes : Obligations.InitCompletes := by
  intro s v hc hv
  obtain ⟨a, ha⟩ := ofCode_of_mem hv
  exact ⟨zeroLanes, a, exec_of_completing hc (execute_init s ha), code_of_ofCode ha,
    fun i => Vector.getElem_replicate i.isLt⟩

/-- The rate in lanes is R150's table. -/
theorem rateLanes_of_mem {a : Variant} {rl : Nat}
    (h : (a, rl) ∈ [(Variant.sha3x224, 18), (.sha3x256, 17), (.sha3x384, 13), (.sha3x512, 9)]) : a.rateLanes = rl := by
  simp only [List.mem_cons, Prod.mk.injEq, List.not_mem_nil, or_false] at h
  rcases h with ⟨rfl, rfl⟩ | ⟨rfl, rfl⟩ | ⟨rfl, rfl⟩ | ⟨rfl, rfl⟩ <;> rfl

/-- A rate lane after a block is XORed in (R154). -/
theorem getElem_xorWords_of_lt (A : Lanes) (word : Nat → Word) {rl i : Nat} (hi : i < 25) (h : i < rl) :
    (xorWords A word rl)[i] = A[i] ^^^ word i :=
  (getElem_xorWords A word rl ⟨i, hi⟩).trans (if_pos h)

/-- A capacity lane after a block is XORed in (R154). -/
theorem getElem_xorWords_of_le (A : Lanes) (word : Nat → Word) {rl i : Nat} (hi : i < 25) (h : rl ≤ i) :
    (xorWords A word rl)[i] = A[i] :=
  (getElem_xorWords A word rl ⟨i, hi⟩).trans (if_neg (Nat.not_lt.2 h))

/-- Settles O36: the lanes that are permuted are the old ones with the rate words XORed in. -/
theorem absorbCompletes : Obligations.AbsorbCompletes := by
  intro s v a rl hc ha hmem hl hw
  obtain rfl := rateLanes_of_mem hmem
  refine ⟨xorWords s.lanes (fun i => s.block.getD i 0) a.rateLanes,
    exec_of_set hc (execute_absorb _ ha) (operandsSet_of hl hw), fun i hi => ?_, fun i hi => ?_⟩
  · rw [getElem_xorWords_of_lt _ _ (by omega) hi, getD_of_lt s.block i.isLt]
  · exact getElem_xorWords_of_le _ _ i.isLt hi

/-- Settles O38: SQUEEZE's execution permutes the lanes. -/
theorem squeezeCompletes : Obligations.SqueezeCompletes := by
  intro s v hc hs
  exact exec_of_allLanesSet hc hs (execute_squeeze _ s)

/-- Settles O39: PERMUTE's execution permutes the lanes. -/
theorem permuteCompletes : Obligations.PermuteCompletes := by
  intro s v hc hs
  exact exec_of_allLanesSet hc hs (execute_permute _ s)

/-- The offset table by flat index is R114's table by column and row. -/
theorem rhoOffsets_eq_row : ∀ x y : Fin 5, rhoOffsets[5 * y.val + x.val] =
    ([[0, 1, 62, 28, 27], [36, 44, 6, 55, 20], [3, 10, 43, 25, 39], [41, 45, 15, 21, 8],
      [18, 2, 61, 56, 14]].getD y.val []).getD x.val 0 := by decide

/-- rho at a coordinate (R115). -/
theorem grid_rho (A : Lanes) (x y : Fin 5) : grid (rho A) x y = rotl (grid A x y) rhoOffsets[5 * y.val + x.val] :=
  getElem_rho A ⟨5 * y.val + x.val, by omega⟩

/-- Settles O42: the new lanes are `rho` of the old ones, and a rotation by the table's offset moves each bit by it. -/
theorem rhoCompletes : Obligations.RhoCompletes := by
  intro s v hc hs
  refine ⟨rho s.lanes, exec_of_allLanesSet hc hs (execute_rho _ s), fun x y b hb => ?_⟩
  intro row
  rw [grid_rho, rhoOffsets_eq_row]
  exact getLsbD_rotl _ _ b hb

end Sys2Proof.Machine
end

section
/-! PROOF. Completions that acceptance rules out (log 10), and completions over operands with no value (R22, R23). -/

namespace Sys2Proof.Machine

theorem execute_init_faults {f : Inflight} (s : State) (h : f.variant.toNat ∉ [1, 2, 3, 4]) :
    execute .init f s = .fault .invalidVariantInFlight := by
  have hc : ∀ c : BitVec 3, c.toNat ∉ [1, 2, 3, 4] → Variant.ofCode c = none := by decide
  simp only [execute, completeInit, hc f.variant h]

theorem execute_absorb_faults {s : State} (f : Inflight) (h : s.activeVariant = none) :
    execute .absorb f s = .fault .noActiveVariant := by
  simp only [execute, completeAbsorb]
  rw [h]

theorem execute_absorbLast_faults {s : State} (f : Inflight) (n : Nat) (h : s.activeVariant = none) :
    execute (.absorbLast n) f s = .fault .noActiveVariant := by
  simp only [execute, completeAbsorbLast]
  rw [h]

theorem execute_absorbLast_faults_of_le {s : State} {a : Variant} {n : Nat} (f : Inflight)
    (h : s.activeVariant = some a) (hn : a.rateBytes ≤ n) :
    execute (.absorbLast n) f s = .fault .lengthOutOfRange := by
  simp only [execute, completeAbsorbLast]
  rw [h]
  exact if_neg (Nat.not_lt.2 hn)

theorem mapLanesAtRound_faults (g : Lanes → Fin 24 → Lanes) {ir : Nat} (f : Inflight) (s : State) (h : 24 ≤ ir) :
    mapLanesAtRound g ir f s = .fault .noRoundConstant :=
  dif_neg (Nat.not_lt.2 h)

/-- Settles O46: each of the completions is a fault of its execution. -/
theorem completionsStopWhereAcceptanceRefuses : Obligations.CompletionsStopWhereAcceptanceRefuses := by
  intro s i v hc
  refine ⟨?_, ?_, fun n hi => ⟨fun ha => ?_, fun a rate ha hmem hn => ?_⟩, fun ir hi hir => ?_⟩
  · rintro rfl hv
    exact exec_faults _ hc.1 hc.2 (execute_init_faults s hv)
  · rintro rfl ha
    exact exec_faults _ hc.1 hc.2 (execute_absorb_faults _ ha)
  · subst hi
    exact exec_faults _ hc.1 hc.2 (execute_absorbLast_faults _ n ha)
  · subst hi
    obtain rfl := rateBytes_of_mem hmem
    exact exec_faults _ hc.1 hc.2 (execute_absorbLast_faults_of_le _ ha hn)
  · rcases hi with rfl | rfl
    · exact exec_faults _ hc.1 hc.2 (mapLanesAtRound_faults keccakRound ⟨.round ir, v⟩ s hir)
    · exact exec_faults _ hc.1 hc.2 (mapLanesAtRound_faults iota ⟨.iota ir, v⟩ s hir)

/-- What a command that reads the 25 lanes only, and replaces them, answers (R111). -/
theorem execute_lane_command {i : Instr} (f : Inflight) (s : State)
    (hi : i ∈ [.squeeze, .permute, .theta, .rho, .pi, .chi] ∨ ∃ ir < 24, i = .round ir ∨ i = .iota ir) :
    ∃ A, execute i f s = .next (s.replaceLanes s.lanesSet A) := by
  rcases hi with hi | ⟨ir, hir, rfl | rfl⟩
  · simp only [List.mem_cons, List.not_mem_nil, or_false] at hi
    rcases hi with rfl | rfl | rfl | rfl | rfl | rfl
    · exact ⟨_, execute_squeeze f s⟩
    · exact ⟨_, execute_permute f s⟩
    · exact ⟨_, execute_theta f s⟩
    · exact ⟨_, execute_rho f s⟩
    · exact ⟨_, execute_pi f s⟩
    · exact ⟨_, execute_chi f s⟩
  · exact ⟨_, execute_round f s ⟨ir, hir⟩⟩
  · exact ⟨_, execute_iota f s ⟨ir, hir⟩⟩

/-- A command finds an operand with no value where a lane, or a word below its bound, has none. -/
theorem operandsSet_eq_false {s : State} {n : Nat}
    (h : (∃ k : Fin 25, s.laneSet[k] = false) ∨ ∃ j : Fin 18, j.val < n ∧ s.blockSet[j] = false) :
    (s.lanesSet && s.blockSetBelow n) = false := by
  rw [Bool.and_eq_false_iff, lanesSet_eq_false, blockSetBelow_eq_false]
  exact h

/-- The draws that stand for 25 unknown lanes, written out (log 4). -/
theorem drawLanes_eq_ofFn (n : Nat) : drawLanes n = Vector.ofFn fun k => Config.freeWord (n + k.val) := by
  unfold drawLanes
  rfl

/-- Settles O58: the execution is `replaceLanes` with an operand unset; the words that hold the first n bytes are those
below (n + 7) / 8. -/
theorem unsetOperandsMakeEveryLaneUnknown : Obligations.UnsetOperandsMakeEveryLaneUnknown := by
  intro s i v hc
  rw [← drawLanes_eq_ofFn s.draws]
  refine ⟨fun hi hl => ?_, fun a rl hi ha hmem hu => ?_, fun a rate n hi ha hmem hn hu => ?_⟩
  · obtain ⟨A, he⟩ := execute_lane_command ⟨i, v⟩ s hi
    exact exec_of_unset hc he ((lanesSet_eq_false s).2 hl)
  · subst hi
    obtain rfl := rateLanes_of_mem hmem
    exact exec_of_unset hc (execute_absorb _ ha) (operandsSet_eq_false hu)
  · subst hi
    obtain rfl := rateBytes_of_mem hmem
    have hunset : (s.lanesSet && s.blockSetBelow ((n + 7) / 8)) = false := by
      refine operandsSet_eq_false (hu.imp_right ?_)
      rintro ⟨j, hj, hset⟩
      exact ⟨j, by omega, hset⟩
    have he := execute_absorbLast ⟨.absorbLast n, v⟩ ha hn
    rw [hunset] at he
    exact exec_of_completing hc he

end Sys2Proof.Machine
end

section
/-! PROOF. Commands that complete one after another: ROUND as five step commands, PERMUTE as 24 ROUNDs (R141, R142). -/

namespace Sys2Proof.Machine

/-- What the next command in a chain needs of a completion that read 25 lanes with a value. -/
theorem lanes_of_exec {a b : State} {i : Instr} {v : BitVec 3} {A : Lanes} (hc : a.completing i v) (hs : a.AllLanesSet)
    (he : execute i ⟨i, v⟩ a = .next (a.replaceLanes a.lanesSet A)) (hexec : exec i a = .next b) :
    b.lanes = A ∧ b.AllLanesSet := by
  cases (exec_of_allLanesSet hc hs he).symm.trans hexec
  exact ⟨rfl, hs⟩

/-- A state that goes on from lanes that all have a value has a value in all its lanes. -/
theorem State.continues.allLanesSet {a b : State} (h : a.continues b) (hb : b.AllLanesSet) : a.AllLanesSet := by
  unfold State.AllLanesSet
  rw [h.2]
  exact hb

/-- Settles O47: the lanes go through theta, rho, pi, chi and iota in order, which is one round. -/
theorem roundEqualsTheFiveStepCommands : Obligations.RoundEqualsTheFiveStepCommands := by
  intro ir v a₁ a₂ a₃ a₄ a₅ b₁ b₂ b₃ b₄ b₅ s hs₁ c₁ e₁ c₂ k₂ e₂ c₃ k₃ e₃ c₄ k₄ e₄ c₅ k₅ e₅ c k
  obtain ⟨h₁, hb₁⟩ := lanes_of_exec c₁ hs₁ (execute_theta _ a₁) e₁
  obtain ⟨h₂, hb₂⟩ := lanes_of_exec c₂ (k₂.allLanesSet hb₁) (execute_rho _ a₂) e₂
  obtain ⟨h₃, hb₃⟩ := lanes_of_exec c₃ (k₃.allLanesSet hb₂) (execute_pi _ a₃) e₃
  obtain ⟨h₄, hb₄⟩ := lanes_of_exec c₄ (k₄.allLanesSet hb₃) (execute_chi _ a₄) e₄
  obtain ⟨h₅, -⟩ := lanes_of_exec c₅ (k₅.allLanesSet hb₄) (execute_iota _ a₅ ir) e₅
  refine ⟨_, roundCompletes s v ir c (k.allLanesSet hs₁), ?_⟩
  calc iota (chi (pi (rho (theta s.lanes)))) ir
      = iota (chi (pi (rho (theta a₁.lanes)))) ir := by rw [k.1]
    _ = iota (chi (pi (rho a₂.lanes))) ir := by rw [k₂.1, h₁]
    _ = iota (chi (pi a₃.lanes)) ir := by rw [k₃.1, h₂]
    _ = iota (chi a₄.lanes) ir := by rw [k₄.1, h₃]
    _ = iota a₅.lanes ir := by rw [k₅.1, h₄]
    _ = b₅.lanes := h₅.symm

/-- The lanes after the first `n` rounds (R141). -/
def lanesAfterRounds (A : Lanes) (n : Nat) : Lanes := ((List.finRange 24).take n).foldl keccakRound A

theorem lanesAfterRounds_succ (A : Lanes) (ir : Fin 24) :
    lanesAfterRounds A (ir.val + 1) = keccakRound (lanesAfterRounds A ir.val) ir := by
  have hlt : ir.val < (List.finRange 24).length := by simp
  rw [lanesAfterRounds, List.take_succ_eq_append_getElem hlt, List.foldl_concat]
  simp [lanesAfterRounds]

/-- Keccak-p is all 24 rounds (R141). -/
theorem keccakP_eq_lanesAfterRounds (A : Lanes) : keccakP A = lanesAfterRounds A 24 := by
  unfold keccakP lanesAfterRounds
  rw [List.take_of_length_le (by simp)]

/-- Settles O48: by induction along the chain, ROUND `ir` ends with the lanes after `ir + 1` rounds. -/
theorem permuteEqualsTheRoundsInOrder : Obligations.PermuteEqualsTheRoundsInOrder := by
  intro v a b s hs hround hchain hc hk
  have hrun : ∀ n (hn : n < 24), (a ⟨n, hn⟩).AllLanesSet ∧ (a ⟨n, hn⟩).lanes = lanesAfterRounds (a 0).lanes n := by
    intro n
    induction n with
    | zero => exact fun _ => ⟨hs, rfl⟩
    | succ n ih =>
      intro hn
      obtain ⟨hset, hlanes⟩ := ih (Nat.lt_of_succ_lt hn)
      obtain ⟨hcn, hexec⟩ := hround ⟨n, Nat.lt_of_succ_lt hn⟩
      obtain ⟨hb, hbset⟩ := lanes_of_exec hcn hset (execute_round _ _ ⟨n, Nat.lt_of_succ_lt hn⟩) hexec
      have hcont := hchain ⟨n, Nat.lt_of_succ_lt hn⟩ ⟨n + 1, hn⟩ rfl
      refine ⟨hcont.allLanesSet hbset, ?_⟩
      rw [hcont.1, hb, hlanes]
      exact (lanesAfterRounds_succ _ ⟨n, Nat.lt_of_succ_lt hn⟩).symm
  obtain ⟨hset, hlanes⟩ := hrun 23 (by decide)
  obtain ⟨hc23, hexec⟩ := hround 23
  obtain ⟨hb, -⟩ := lanes_of_exec hc23 hset (execute_round _ _ 23) hexec
  refine ⟨_, permuteCompletes s v hc (hk.allLanesSet hs), ?_⟩
  calc keccakP s.lanes
      = lanesAfterRounds (a 0).lanes 24 := by rw [keccakP_eq_lanesAfterRounds, hk.1]
    _ = keccakRound (lanesAfterRounds (a 0).lanes 23) 23 := lanesAfterRounds_succ _ 23
    _ = keccakRound (a 23).lanes 23 := congrArg (keccakRound · 23) hlanes.symm
    _ = (b 23).lanes := hb.symm

end Sys2Proof.Machine
end

section
/-! PROOF. PI's order, IOTA's involution, the rho offsets and the round constants (40_round R113, R119 to R121, R127, R129). -/

namespace Sys2Proof.Machine

/-- Where PI takes the lane at a coordinate from (R117). -/
def piSource (p : Fin 5 × Fin 5) : Fin 5 × Fin 5 := (p.1 + 3 * p.2, p.1)

/-- `k` times PI takes each lane from `k` sources back. -/
theorem grid_iterate_pi (k : Nat) (A : Lanes) (x y : Fin 5) :
    grid (Nat.iterate pi k A) x y = grid A (Nat.iterate piSource k (x, y)).1 (Nat.iterate piSource k (x, y)).2 := by
  induction k generalizing x y with
  | zero => rfl
  | succ k ih =>
    rw [Function.iterate_succ_apply', grid_pi, ih, Function.iterate_succ_apply]
    rfl

theorem iterate_piSource_twentyFour : ∀ x y : Fin 5, Nat.iterate piSource 24 (x, y) = (x, y) := by decide

theorem iterate_piSource_ne : ∀ k < 24, 0 < k → Nat.iterate piSource k (1, 0) ≠ (1, 0) := by decide

/-- 25 lanes, each holding its own index. -/
def indexLanes : Lanes := Vector.ofFn fun i => BitVec.ofNat 64 i.val

/-- No two coordinates hold the same lane of `indexLanes`. -/
theorem grid_indexLanes_inj {x y x' y' : Fin 5} (h : grid indexLanes x y = grid indexLanes x' y') :
    (x, y) = (x', y') := by
  have hword : ∀ x y : Fin 5, (grid indexLanes x y).toNat = 5 * y.val + x.val := by decide
  have hn := congrArg BitVec.toNat h
  rw [hword, hword] at hn
  have hx : x = x' := Fin.ext (by omega)
  have hy : y = y' := Fin.ext (by omega)
  rw [hx, hy]

/-- Settles O49: the sources form one cycle of length 24 and a fixed point, and lanes that are all different show every
coordinate that has moved. -/
theorem piHasOrderTwentyFour : Obligations.PiHasOrderTwentyFour := by
  refine ⟨fun A => lanes_eq_of_grid fun x y => ?_, fun k hpos hk => ⟨indexLanes, fun h => ?_⟩⟩
  · rw [grid_iterate_pi, iterate_piSource_twentyFour]
  · have hmoved := grid_iterate_pi k indexLanes 1 0
    rw [h] at hmoved
    exact iterate_piSource_ne k hk hpos (grid_indexLanes_inj hmoved.symm)

/-- Settles O50: the same constant goes into lane (0,0) twice. -/
theorem iotaTwiceRestoresTheState : Obligations.IotaTwiceRestoresTheState := by
  intro A ir
  refine lanes_eq_of_grid fun x y => ?_
  by_cases h : x = 0 ∧ y = 0
  · obtain ⟨rfl, rfl⟩ := h
    rw [grid_iota, if_pos ⟨rfl, rfl⟩, grid_iota, if_pos ⟨rfl, rfl⟩, BitVec.xor_assoc, BitVec.xor_self, BitVec.xor_zero]
  · rw [grid_iota_of_ne _ _ h, grid_iota_of_ne _ _ h]

/-- Settles O51: the schedule evaluated along its 24 lanes. -/
theorem rhoOffsetsFollowTheSchedule : Obligations.RhoOffsetsFollowTheSchedule := by
  unfold Obligations.RhoOffsetsFollowTheSchedule
  decide +kernel

/-- Settles O52: the generator evaluated for the 24 indices, bit by bit. -/
theorem roundConstantsComeFromTheGenerator : Obligations.RoundConstantsComeFromTheGenerator := by
  unfold Obligations.RoundConstantsComeFromTheGenerator
  decide +kernel

/-- Settles O57: the 24 constants of the generator against the listed ones. -/
theorem roundConstantTable : Obligations.RoundConstantTable := by
  unfold Obligations.RoundConstantTable
  decide +kernel

end Sys2Proof.Machine
end

section
/-! PROOF. The final block, the digest readout and LOADMSG (30_encoding R91; 42_sponge R153, R160). -/

namespace Sys2Proof.Machine

theorem getElem_pad {msg : List Byte} {n rate k : Nat} (h : k < (pad msg n rate).length) :
    (pad msg n rate)[k] = padByte msg n rate k := by
  simp [pad]

/-- A message byte of the final block (R152). -/
theorem padByte_of_lt_length {msg : List Byte} {rate k : Nat} (h : k < msg.length) (hr : msg.length < rate) :
    padByte msg msg.length rate k = msg[k] := by
  have hn : k ≠ msg.length := by omega
  have hlast : k ≠ rate - 1 := by omega
  simp [padByte, h, hn, hlast]

/-- A byte of the final block past the message (R152). -/
theorem padByte_of_length_le {msg : List Byte} {rate k : Nat} (h : msg.length ≤ k) :
    padByte msg msg.length rate k = (if k = msg.length then 0x06 else 0) ||| (if k = rate - 1 then 0x80 else 0) := by
  simp [padByte, Nat.not_lt.2 h]

/-- Settles O53: byte by byte, a message byte, the 06, a zero or the 80, the two marks meeting in one byte when the
message leaves one byte. -/
theorem paddingCornerCases : Obligations.PaddingCornerCases := by
  intro a msg
  refine ⟨fun h => List.ext_getElem (by simp; omega) fun k hk hk' => ?_,
    fun h => List.ext_getElem (by simp; omega) fun k hk hk' => ?_⟩
  all_goals
    rw [length_pad] at hk
    rw [getElem_pad]
    by_cases hmsg : k < msg.length
    · rw [padByte_of_lt_length hmsg (by omega)]
      simp [hmsg]
    rw [padByte_of_length_le (Nat.not_lt.1 hmsg)]
  · by_cases hn : k = msg.length
    · subst hn
      have hlast : msg.length ≠ a.rateBytes - 1 := by omega
      simp [hlast]
    · by_cases hlast : k = a.rateBytes - 1
      · rw [List.getElem_append_right (by simp; omega), List.getElem_singleton, if_neg hn, if_pos hlast]
        rfl
      · rw [List.getElem_append_left (by simp; omega), List.getElem_append_right (by simp; omega),
          List.getElem_replicate, if_neg hn, if_neg hlast]
        rfl
  · have hk1 : k = msg.length := by omega
    subst hk1
    have hlast : msg.length = a.rateBytes - 1 := by omega
    simp [hlast]

/-- The number of digest bytes is R150's table. -/
theorem outBytes_of_mem {a : Variant} {n : Nat}
    (h : (a, n) ∈ [(Variant.sha3x224, 28), (.sha3x256, 32), (.sha3x384, 48), (.sha3x512, 64)]) : a.outBytes = n := by
  simp only [List.mem_cons, Prod.mk.injEq, List.not_mem_nil, or_false] at h
  rcases h with ⟨rfl, rfl⟩ | ⟨rfl, rfl⟩ | ⟨rfl, rfl⟩ | ⟨rfl, rfl⟩ <;> rfl

/-- A byte of a word as a digit of its number, to the base 256 (R54). -/
theorem byteOfWord_eq_ofNat (w : Word) (j : Nat) : byteOfWord w j = BitVec.ofNat 8 (w.toNat / 256 ^ j) := by
  apply BitVec.eq_of_toNat_eq
  simp only [byteOfWord, BitVec.extractLsb'_toNat, BitVec.toNat_ofNat, Nat.shiftRight_eq_div_pow, Nat.pow_mul]

theorem getD_digestOf (a : Variant) (A : Lanes) {k : Nat} (hk : k < a.outBytes) :
    (digestOf a A).getD k 0 = stateByte A k := by
  simp [digestOf, hk]

/-- Settles O54: a digest byte is a state byte, which is a digit of its lane. -/
theorem digestReadout : Obligations.DigestReadout := by
  intro a n A hmem
  obtain rfl := outBytes_of_mem hmem
  refine ⟨length_digestOf a A, fun k hlane hk => ?_⟩
  rw [getD_digestOf a A hk, stateByte, getD_of_lt A hlane, byteOfWord_eq_ofNat]

/-- The block words below a bound, in order, are the first ones. -/
theorem filter_finRange_eq_take :
    ∀ m ≤ 18, ((List.finRange 18).filter fun j => j.val < m) = (List.finRange 18).take m := by decide

/-- The writes of LOADMSG, for a message that fits the buffer (R91). -/
theorem expand_loadmsg {bytes : List Byte} (h : bytes.length ≤ 144) :
    Line.expand (.loadmsg bytes) = some (((List.finRange 18).take ((bytes.length + 7) / 8)).map fun j =>
      wrInput (.block j) (wordOfBytes bytes j.val)) := by
  rw [Line.expand, loadmsgInputs, if_pos h, filter_finRange_eq_take _ (by omega)]

/-- Settles O56: the writes are those of the words that hold message bytes, and `byteOfWord_wordOfBytes` gives the bytes
of each. -/
theorem loadmsgWritesTheMessage : Obligations.LoadmsgWritesTheMessage := by
  intro bytes hlen
  have hm : (bytes.length + 7) / 8 ≤ 18 := by omega
  refine ⟨_, expand_loadmsg hlen, by simpa using hm, fun j hj => ⟨wordOfBytes bytes j.val, ?_, fun k hk => ?_⟩⟩
  · have hj' : j.val < (bytes.length + 7) / 8 := by simp at hj; exact hj
    simp [List.getElem?_take_of_lt hj', wrInput]
  · exact byteOfWord_wordOfBytes bytes j.val k hk

end Sys2Proof.Machine
end

section
/-! PROOF. Noninterference: what the lanes and the buffer hold reaches nothing but lanes, buffer and the data of a read
answered OK (10_state R22, R23). Every operation of a step is shown to keep `State.sameButData`. -/

namespace Sys2Proof.Machine

theorem sameAnswer_refl (q : Option Response) : sameAnswer q q := .inl rfl

theorem sameAnswer_readOk (a b : Word) : sameAnswer (some (.readOk a)) (some (.readOk b)) := .inr ⟨a, b, rfl, rfl⟩

namespace State.sameButData

variable {s s' : State}

/-- The second state as the first with other data. -/
theorem exists_data (h : s.sameButData s') :
    ∃ L B r, s' = { s with lanes := L, block := B, response := r } ∧ sameAnswer s.response r :=
  ⟨_, _, _, h.1, h.2⟩

theorem busy_eq (h : s.sameButData s') : s'.busy = s.busy := by rw [h.1]; rfl
theorem err_eq (h : s.sameButData s') : s'.err = s.err := by rw [h.1]
theorem mover_eq (h : s.sameButData s') : s'.mover = s.mover := by rw [h.1]; rfl
theorem program_eq (h : s.sameButData s') : s'.program = s.program := by rw [h.1]
theorem inflight_eq (h : s.sameButData s') : s'.inflight = s.inflight := by rw [h.1]
theorem activeVariant_eq (h : s.sameButData s') : s'.activeVariant = s.activeVariant := by rw [h.1]
theorem lanesSet_eq (h : s.sameButData s') : s'.lanesSet = s.lanesSet := by rw [h.1]; rfl
theorem blockSetBelow_eq (h : s.sameButData s') (n : Nat) : s'.blockSetBelow n = s.blockSetBelow n := by rw [h.1]; rfl
theorem verdict_eq (h : s.sameButData s') (i : Instr) : verdict i s' = verdict i s := by
  rw [h.1]
  cases i <;> rfl

theorem endIdleTurn (h : s.sameButData s') : s.endIdleTurn.sameButData s'.endIdleTurn := by
  obtain ⟨L, B, r, rfl, hr⟩ := h.exists_data
  exact ⟨rfl, hr⟩

theorem endHostTurn (h : s.sameButData s') {q r : Response} (hqr : sameAnswer (some q) (some r)) :
    (s.endHostTurn q).sameButData (s'.endHostTurn r) := by
  obtain ⟨L, B, _, rfl, -⟩ := h.exists_data
  exact ⟨rfl, hqr⟩

theorem raiseError (h : s.sameButData s') (e : CmdError) : (raiseError e s).sameButData (raiseError e s') := by
  obtain ⟨L, B, r, rfl, hr⟩ := h.exists_data
  rw [raiseError_eq, raiseError_eq]
  exact ⟨rfl, hr⟩

theorem startCommand (h : s.sameButData s') (i : Instr) : (startCommand i s).sameButData (startCommand i s') := by
  obtain ⟨L, B, r, rfl, hr⟩ := h.exists_data
  exact ⟨rfl, hr⟩

theorem finishCommand (h : s.sameButData s') : (finishCommand s).sameButData (finishCommand s') := by
  obtain ⟨L, B, r, rfl, hr⟩ := h.exists_data
  exact ⟨rfl, hr⟩

theorem writeStatus (h : s.sameButData s') (v : Word) : (writeStatus v s).sameButData (writeStatus v s') := by
  obtain ⟨L, B, r, rfl, hr⟩ := h.exists_data
  rw [writeStatus_eq, writeStatus_eq]
  exact ⟨rfl, hr⟩

theorem writeConfig (h : s.sameButData s') (v : Word) : (writeConfig v s).sameButData (writeConfig v s') := by
  obtain ⟨L, B, r, rfl, hr⟩ := h.exists_data
  exact ⟨rfl, hr⟩

theorem setLane (h : s.sameButData s') (i : Fin 25) (v : Word) : (s.setLane i v).sameButData (s'.setLane i v) := by
  obtain ⟨L, B, r, rfl, hr⟩ := h.exists_data
  exact ⟨rfl, hr⟩

theorem setBlock (h : s.sameButData s') (j : Fin 18) (v : Word) : (s.setBlock j v).sameButData (s'.setBlock j v) := by
  obtain ⟨L, B, r, rfl, hr⟩ := h.exists_data
  exact ⟨rfl, hr⟩

theorem afterReset (h : s.sameButData s') : s.afterReset.sameButData s'.afterReset := by
  obtain ⟨L, B, r, rfl, -⟩ := h.exists_data
  exact ⟨rfl, sameAnswer_refl _⟩

theorem pollStatus (h : s.sameButData s') : (pollStatus s).sameButData (pollStatus s') := by
  obtain ⟨L, B, r, rfl, -⟩ := h.exists_data
  exact ⟨rfl, sameAnswer_readOk _ _⟩

/-- The results of a command may differ, but the marks and the draws do not. -/
theorem replaceLanes (h : s.sameButData s') (k : Bool) (A A' : Lanes) :
    (s.replaceLanes k A).sameButData (s'.replaceLanes k A') := by
  obtain ⟨L, B, r, rfl, hr⟩ := h.exists_data
  cases k <;> exact ⟨rfl, hr⟩

/-- What a read leaves; its answer is data. -/
theorem readReg (h : s.sameButData s') (r : Reg) : (readReg r s).2.sameButData (readReg r s').2 := by
  cases r with
  | state i =>
    simp only [Machine.readReg, h.busy_eq]
    split
    · obtain ⟨L, B, r, rfl, hr⟩ := h.exists_data
      exact ⟨rfl, hr⟩
    · exact h
  | block | cmd | status | config | param | info | rc => exact h

/-- Acceptance reads the errors, BUSY and the verdict, none of them data (R86). -/
theorem accept (h : s.sameButData s') (v : Except CmdError Instr) : (accept v s).sameButData (accept v s') := by
  unfold Machine.accept
  rw [h.err_eq, h.busy_eq]
  split
  · exact h
  · split
    · exact h.raiseError _
    · cases v with
      | error e => exact h.raiseError e
      | ok i => exact h.startCommand i

end State.sameButData

/-- Where one answer goes on, so does the other, to states that differ only in data. -/
def goesOnAlike (a b : Answer) : Prop := ∀ t, a = .next t → ∃ t', b = .next t' ∧ t.sameButData t'

theorem goesOnAlike_next {t t' : State} (h : t.sameButData t') : goesOnAlike (.next t) (.next t') := by
  intro u hu
  cases hu
  exact ⟨t', rfl, h⟩

theorem goesOnAlike_fault (r : Fault) (b : Answer) : goesOnAlike (.fault r) b := by
  intro u hu
  cases hu

section

variable {s s' : State} (h : s.sameButData s')
include h

theorem mapLanes_alike (g : Lanes → Lanes) (f : Inflight) : goesOnAlike (mapLanes g f s) (mapLanes g f s') := by
  unfold mapLanes
  rw [h.lanesSet_eq]
  exact goesOnAlike_next (h.replaceLanes _ _ _)

theorem mapLanesAtRound_alike (g : Lanes → Fin 24 → Lanes) (ir : Nat) (f : Inflight) :
    goesOnAlike (mapLanesAtRound g ir f s) (mapLanesAtRound g ir f s') := by
  unfold mapLanesAtRound
  rw [h.lanesSet_eq]
  split
  · exact goesOnAlike_next (h.replaceLanes _ _ _)
  · exact goesOnAlike_fault _ _

theorem completeInit_alike (f : Inflight) : goesOnAlike (completeInit f s) (completeInit f s') := by
  unfold completeInit
  split
  · exact goesOnAlike_fault _ _
  · obtain ⟨L, B, r, rfl, hr⟩ := h.exists_data
    exact goesOnAlike_next ⟨rfl, hr⟩

theorem completeAbsorb_alike (f : Inflight) : goesOnAlike (completeAbsorb f s) (completeAbsorb f s') := by
  unfold completeAbsorb
  rw [h.activeVariant_eq]
  split
  · exact goesOnAlike_fault _ _
  · rw [h.lanesSet_eq, h.blockSetBelow_eq]
    exact goesOnAlike_next (h.replaceLanes _ _ _)

theorem completeAbsorbLast_alike (n : Nat) (f : Inflight) :
    goesOnAlike (completeAbsorbLast n f s) (completeAbsorbLast n f s') := by
  unfold completeAbsorbLast
  rw [h.activeVariant_eq]
  split
  · exact goesOnAlike_fault _ _
  next v _ =>
    split
    · rw [h.lanesSet_eq, h.blockSetBelow_eq]
      obtain ⟨L, B, r, hu, hr⟩ := (h.replaceLanes (s.lanesSet && s.blockSetBelow ((n + 7) / 8))
        (absorbFinal v n s.block s.lanes) (absorbFinal v n s'.block s'.lanes)).exists_data
      rw [hu]
      exact goesOnAlike_next ⟨rfl, hr⟩
    · exact goesOnAlike_fault _ _

/-- Whether and how a command executes does not depend on data (R181). -/
theorem execute_alike (i : Instr) (f : Inflight) : goesOnAlike (execute i f s) (execute i f s') := by
  cases i with
  | nop => exact goesOnAlike_next h
  | init => exact completeInit_alike h f
  | absorb => exact completeAbsorb_alike h f
  | absorbLast n => exact completeAbsorbLast_alike h n f
  | round ir => exact mapLanesAtRound_alike h keccakRound ir f
  | iota ir => exact mapLanesAtRound_alike h iota ir f
  | squeeze | permute => exact mapLanes_alike h keccakP f
  | theta => exact mapLanes_alike h theta f
  | rho => exact mapLanes_alike h rho f
  | pi => exact mapLanes_alike h pi f
  | chi => exact mapLanes_alike h chi f

theorem coreMove_alike (hm : s.mover = .core) : goesOnAlike (coreMove exec s) (coreMove exec s') := by
  cases hf : s.inflight with
  | none =>
    simp only [coreMove, hf, h.inflight_eq]
    exact goesOnAlike_next h.endIdleTurn
  | some f =>
    simp only [coreMove, hf, h.inflight_eq]
    intro t ht
    obtain ⟨u, hu, rfl⟩ := exec_core_next hm hf ht
    obtain ⟨u', hu', hsame⟩ := execute_alike h f.command f u hu
    exact ⟨_, exec_completes f.command (h.mover_eq.trans hm) (h.inflight_eq.trans hf) hu', hsame.finishCommand⟩

theorem writeDone_alike : goesOnAlike (writeDone s) (writeDone s') :=
  goesOnAlike_next (h.endHostTurn (sameAnswer_refl _))

theorem writeCmd_alike (hm : s.mover = .host) (w : Word) : goesOnAlike (writeCmd exec w s) (writeCmd exec w s') := by
  unfold writeCmd
  split
  next i _ =>
    rw [exec_of_host i hm, exec_of_host i (h.mover_eq.trans hm), h.verdict_eq]
    exact goesOnAlike_next ((h.accept _).endHostTurn (sameAnswer_refl _))
  · exact goesOnAlike_next ((h.accept _).endHostTurn (sameAnswer_refl _))

theorem writeReg_alike (hm : s.mover = .host) (r : Reg) (v : Word) :
    goesOnAlike (writeReg exec r v s) (writeReg exec r v s') := by
  cases r with
  | state i =>
    simp only [writeReg, h.busy_eq]
    split
    · exact writeDone_alike (h.raiseError .busy)
    · exact writeDone_alike (h.setLane i v)
  | block j =>
    simp only [writeReg, h.busy_eq]
    split
    · exact writeDone_alike (h.raiseError .busy)
    · exact writeDone_alike (h.setBlock j v)
  | cmd => exact writeCmd_alike h hm v
  | status => exact writeDone_alike (h.writeStatus v)
  | config => exact writeDone_alike (h.writeConfig v)
  | param | info | rc => exact writeDone_alike h

theorem busError_alike (a : Response) : (busError a s).sameButData (busError a s') :=
  (h.raiseError .busError).endHostTurn (sameAnswer_refl _)

theorem hostRead_alike (offset : Fin 0x400) (size : Nat) :
    (hostRead offset size s).sameButData (hostRead offset size s') := by
  unfold hostRead
  split
  · exact busError_alike h _
  next r _ => exact (h.readReg r).endHostTurn (sameAnswer_readOk _ _)

theorem hostWrite_alike (hm : s.mover = .host) (offset : Fin 0x400) (size : Nat) (v : Word) :
    goesOnAlike (hostWrite exec offset size v s) (hostWrite exec offset size v s') := by
  unfold hostWrite
  split
  · exact goesOnAlike_next (busError_alike h _)
  next r _ => exact writeReg_alike h hm r v

theorem hostMove_alike (hm : s.mover = .host) : goesOnAlike (hostMove exec s) (hostMove exec s') := by
  unfold hostMove
  rw [h.program_eq]
  split
  · exact goesOnAlike_next h.endIdleTurn
  next offset size _ _ => exact goesOnAlike_next (hostRead_alike h offset size)
  next offset size v _ _ => exact hostWrite_alike h hm offset size v
  · exact goesOnAlike_next h.pollStatus
  · exact goesOnAlike_next h.afterReset

end

/-- Settles O33: both states have the same mover, and each agent's move keeps the relation. -/
theorem controlDoesNotDependOnLanesOrBlock : Obligations.ControlDoesNotDependOnLanesOrBlock := by
  intro s s' t h hstep
  cases hm : s.mover with
  | host =>
    simp only [step, hm, h.mover_eq] at hstep ⊢
    exact hostMove_alike h hm t hstep
  | core =>
    simp only [step, hm, h.mover_eq] at hstep ⊢
    exact coreMove_alike h hm t hstep

end Sys2Proof.Machine
end
